-- ==== Sys2Proof/Word.lean ====
section
/-! DEFINITION. The words and bytes of the engine (spec/00_scope.md R10, spec/47_rotation_arith.md R260). -/

namespace Sys2Proof

/-- The data unit: an octet (R9). -/
abbrev Byte := BitVec 8

/-- A 32-bit word. `+_32` of R261 is its `+`, and R262's `&`, `|`, `^`, `~` are its `&&&`, `|||`, `^^^`, `~~~`. -/
abbrev Word32 := BitVec 32

/-- A 64-bit word, with the same operations at W = 64 (R261, R262). -/
abbrev Word64 := BitVec 64

/-- The byte orders of R6's column ORD. -/
inductive ByteOrder where
  | little
  | big
deriving DecidableEq, Repr

/-- A ChainingState value: the words `H[0..NH-1]`, at the width W of the algorithm (R22). -/
inductive Chain where
  | w32 (words : List Word32)
  | w64 (words : List Word64)
deriving DecidableEq, Repr

end Sys2Proof
end

