-- ==== Sys2Proof/Syntax.lean ====
section
/-! DEFINITION. The algorithms, the transactions of the command interface as the host writes them, and the commands
(spec/30_encoding.md R80 to R84, spec/opcode_table.json). -/

namespace Sys2Proof

/-- The seven algorithms, in the order of their codes 0 to 6 (R2, R83). -/
inductive Alg where
  | md4
  | md5
  | sha1
  | sha224
  | sha256
  | sha384
  | sha512
deriving DecidableEq, Repr

/-- One transaction from the host, as it is written: the header word, the 64-bit LEN operand where the host gives one, and
the data bytes in issue order (R80). The header and LEN are numbers; their transport is outside the spec. Nothing here is
assumed legal: the decoder decides. -/
structure Transaction where
  cmd  : BitVec 32
  len  : Option (BitVec 64)
  data : List Byte
deriving DecidableEq, Repr

/-- The commands: one constructor per row of spec/opcode_table.json. -/
inductive Instr where
  | initMD4
  | initMD5
  | initSHA1
  | initSHA224
  | initSHA256
  | initSHA384
  | initSHA512
  | reset
  | update (data : List Byte)
  | final
deriving DecidableEq, Repr

/-- What a header word says (R82): a command, for INIT with its algorithm. -/
inductive Header where
  | init (alg : Alg)
  | reset
  | update
  | final
deriving DecidableEq, Repr

/-- Why a transaction is no command: F1 (R304), F6 (R309), or an operand given to a command that has none (R85; log entry 2). -/
inductive DecodeError where
  | reservedEncoding
  | lenMismatch
  | strayOperand
deriving DecidableEq, Repr

end Sys2Proof
end

