-- ==== Sys2Proof/WellFormed.lean ====
section
/-! DEFINITION. Which commands the encoding admits: every command but an UPDATE whose byte count does not fit the 64-bit
LEN operand (spec/30_encoding.md R84: LEN is in [0, 2^64)). -/

namespace Sys2Proof

/-- The byte count of an UPDATE fits LEN (R84); the other commands have no operand. -/
def Instr.wellFormed : Instr → Bool
  | .initMD4 => true
  | .initMD5 => true
  | .initSHA1 => true
  | .initSHA224 => true
  | .initSHA256 => true
  | .initSHA384 => true
  | .initSHA512 => true
  | .reset => true
  | .update data => decide (data.length < 2 ^ 64)
  | .final => true

end Sys2Proof
end

