-- ==== Sys2Proof/Decode.lean ====
section
/-! DEFINITION. Decoding a transaction, total and rejecting by name (spec/30_encoding.md R81 to R90, spec/60_exceptions.md
R304, R309, R311), and after it the encoder. -/

namespace Sys2Proof

/-- Field OP, bits 31:28 (R81). -/
def opField (cmd : BitVec 32) : BitVec 4 := cmd.extractLsb' 28 4

/-- Field ALG, bits 27:24 (R81). -/
def algField (cmd : BitVec 32) : BitVec 4 := cmd.extractLsb' 24 4

/-- Field RSVD, bits 23:0 (R81). -/
def rsvdField (cmd : BitVec 32) : BitVec 24 := cmd.extractLsb' 0 24

/-- The ALG codes (R83); 7 to 15 are reserved. -/
def Alg.ofCode : Nat → Option Alg
  | 0 => some .md4
  | 1 => some .md5
  | 2 => some .sha1
  | 3 => some .sha224
  | 4 => some .sha256
  | 5 => some .sha384
  | 6 => some .sha512
  | _ => none

/-- The header word (R81, R82, R88): `none` for every reserved header. It reads nothing but the word (R89). -/
def decodeHeader (cmd : BitVec 32) : Option Header :=
  if rsvdField cmd = 0 then
    match (opField cmd).toNat with
    | 1 => (Alg.ofCode (algField cmd).toNat).map Header.init
    | 2 => if algField cmd = 0 then some .reset else none
    | 3 => if algField cmd = 0 then some .update else none
    | 4 => if algField cmd = 0 then some .final else none
    | _ => none
  else none

/-- The INIT command of an algorithm (R101). -/
def Instr.initOf : Alg → Instr
  | .md4 => .initMD4
  | .md5 => .initMD5
  | .sha1 => .initSHA1
  | .sha224 => .initSHA224
  | .sha256 => .initSHA256
  | .sha384 => .initSHA384
  | .sha512 => .initSHA512

/-- A command of one header word (R85): an operand given beside it belongs to no transaction of R80 (log entry 2). -/
def withoutOperand (i : Instr) (t : Transaction) : Except DecodeError Instr :=
  if t.len = none ∧ t.data = [] then .ok i else .error .strayOperand

/-- Decoding a transaction. A reserved header comes first, then a malformed UPDATE (R311): one whose data count is not LEN
(R90), or that carries no LEN at all (log entry 3). -/
def decode (t : Transaction) : Except DecodeError Instr :=
  match decodeHeader t.cmd with
  | none => .error .reservedEncoding
  | some (.init alg) => withoutOperand (.initOf alg) t
  | some .reset => withoutOperand .reset t
  | some .final => withoutOperand .final t
  | some .update =>
    match t.len with
    | none => .error .lenMismatch
    | some n => if n.toNat = t.data.length then .ok (.update t.data) else .error .lenMismatch

/-- The transaction whose bits are `w`, numbered as spec/opcode_table.json numbers a row's: the header in bits 31:0, and
for UPDATE alone LEN in bits 95:32 and data byte `j` in the eight bits from 96 + 8 j (log entry 14). Bits from `nbits` up
are 0. -/
def transactionOfBits (nbits w : Nat) : Transaction :=
  let bits := w % 2 ^ nbits
  let cmd := BitVec.ofNat 32 bits
  match decodeHeader cmd with
  | some .update =>
    let len := BitVec.ofNat 64 (bits / 2 ^ 32)
    { cmd := cmd, len := some len,
      data := (List.range len.toNat).map fun j => BitVec.ofNat 8 (bits / 2 ^ (96 + 8 * j)) }
  | _ => { cmd := cmd, len := none, data := [] }

/-- The command the decoder reads from those bits; `none` where it refuses. -/
def decodeTableWord (nbits w : Nat) : Option Instr :=
  match decode (transactionOfBits nbits w) with
  | .ok i => some i
  | .error _ => none

/-- The header word of a command, from the opcode table (R87, R91). -/
def headerWord : Instr → BitVec 32
  | .initMD4 => 0x10000000#32
  | .initMD5 => 0x11000000#32
  | .initSHA1 => 0x12000000#32
  | .initSHA224 => 0x13000000#32
  | .initSHA256 => 0x14000000#32
  | .initSHA384 => 0x15000000#32
  | .initSHA512 => 0x16000000#32
  | .reset => 0x20000000#32
  | .update _ => 0x30000000#32
  | .final => 0x40000000#32

/-- The transaction of a command: its header, and for UPDATE its byte count and bytes (R80, R84). An ill-formed UPDATE, of
2^64 bytes or more, gets its count mod 2^64, which `decode` refuses (DESIGN CHOICE, log entry 19). -/
def encode (i : Instr) : Transaction :=
  match i with
  | .update data => { cmd := headerWord i, len := some (BitVec.ofNat 64 data.length), data := data }
  | _ => { cmd := headerWord i, len := none, data := [] }

end Sys2Proof
end

