-- ==== Sys2Proof/Machine/Operands.lean ====
section
/-! DEFINITION. The conversions between bytes and words: LE, BE, toLE_n, toBE_n of spec/00_scope.md R12, and the message
words of a Block (spec/20_memory.md R55). They are the only places where a byte order stands (R58, R144). -/

namespace Sys2Proof.Machine

/-- LE(s): the number whose little-endian bytes are s (R12). -/
def fromLE : List Byte → Nat
  | [] => 0
  | b :: bs => b.toNat + 256 * fromLE bs

/-- BE(s): the number whose big-endian bytes are s (R12). -/
def fromBE (bs : List Byte) : Nat := fromLE bs.reverse

/-- toLE_n(v): the n little-endian bytes of v mod 2^(8n) (R12). -/
def toLE : Nat → Nat → List Byte
  | 0, _ => []
  | n + 1, v => BitVec.ofNat 8 v :: toLE n (v / 256)

/-- toBE_n(v): the n big-endian bytes of v mod 2^(8n) (R12). -/
def toBE (n v : Nat) : List Byte := (toLE n v).reverse

/-- The number of a byte sequence in a byte order. -/
def fromBytes (ord : ByteOrder) (bs : List Byte) : Nat :=
  match ord with
  | .little => fromLE bs
  | .big => fromBE bs

/-- The n bytes of a number in a byte order. -/
def toBytes (ord : ByteOrder) (n v : Nat) : List Byte :=
  match ord with
  | .little => toLE n v
  | .big => toBE n v

/-- The 16 message words of a Block's bytes, each `n` bytes in order `ord`: word i is at byte address n i (R53, R55). -/
def messageWords (w n : Nat) (ord : ByteOrder) (blk : List Byte) : List (BitVec w) :=
  (List.range 16).map fun i => BitVec.ofNat w (fromBytes ord ((blk.drop (n * i)).take n))

/-- Each word of a list as `n` bytes in order `ord`, word 0 first (R57). -/
def wordBytes {w : Nat} (n : Nat) (ord : ByteOrder) (ws : List (BitVec w)) : List Byte :=
  ws.flatMap fun x => toBytes ord n x.toNat

end Sys2Proof.Machine
end

