-- ==== Sys2Proof/Machine/Rotation.lean ====
section
/-! DEFINITION. The bit-rotation and shift units (spec/47_rotation_arith.md R263 to R265). Addition mod 2^W and the bitwise
operations are those of BitVec (R261, R262). -/

namespace Sys2Proof.Machine

/-- ROTL_W(x, n) for any n: `(x << r) | (x >> (W - r))` with r = n mod W, and x itself when r = 0 (R263). -/
def rotl {w : Nat} (x : BitVec w) (n : Nat) : BitVec w :=
  let r := n % w
  if r = 0 then x else (x <<< r) ||| (x >>> (w - r))

/-- ROTR_W(x, n) for any n: `(x >> r) | (x << (W - r))` with r = n mod W, and x itself when r = 0 (R264). -/
def rotr {w : Nat} (x : BitVec w) (n : Nat) : BitVec w :=
  let r := n % w
  if r = 0 then x else (x >>> r) ||| (x <<< (w - r))

/-- SHR_W(x, n): zeros shifted in at the top (R265). -/
def shr {w : Nat} (x : BitVec w) (n : Nat) : BitVec w := x >>> n

end Sys2Proof.Machine
end

