-- ==== Sys2Proof/Machine/MD4.lean ====
section
/-! DEFINITION. MD4 compression, PROCESS_MD4 (spec/42_md4.md R160 to R169). -/

namespace Sys2Proof.Machine

/-- The working variables of MD4 and MD5 (R33). -/
structure Vars4 where
  a : Word32
  b : Word32
  c : Word32
  d : Word32
deriving DecidableEq, Repr

/-- `(a, b, c, d) <- (H[0], H[1], H[2], H[3])` (R168, R187). -/
def Vars4.load (h : List Word32) : Vars4 :=
  { a := h.getD 0 0, b := h.getD 1 0, c := h.getD 2 0, d := h.getD 3 0 }

/-- The feed-forward: each working word is added into its ChainingState word (R169, R187). -/
def Vars4.feedForward (v : Vars4) (h : List Word32) : List Word32 :=
  [h.getD 0 0 + v.a, h.getD 1 0 + v.b, h.getD 2 0 + v.c, h.getD 3 0 + v.d]

/-- F (R161). -/
def md4F (x y z : Word32) : Word32 := (x &&& y) ||| (~~~x &&& z)

/-- G, the bitwise majority (R162). -/
def md4G (x y z : Word32) : Word32 := (x &&& y) ||| (x &&& z) ||| (y &&& z)

/-- H (R163). -/
def md4H (x y z : Word32) : Word32 := x ^^^ y ^^^ z

/-- The round function of round r (R167). -/
def md4Phi (r : Nat) (x y z : Word32) : Word32 :=
  match r with
  | 0 => md4F x y z
  | 1 => md4G x y z
  | _ => md4H x y z

/-- K_MD4 (R164). -/
def md4K : List Word32 := [0x00000000#32, 0x5a827999#32, 0x6ed9eba1#32]

/-- The message-word indexes k(r, i), entry 16 r + i (R165). -/
def md4Index : List Nat :=
  [0, 1, 2, 3, 4, 5, 6, 7, 8, 9, 10, 11, 12, 13, 14, 15] ++
  [0, 4, 8, 12, 1, 5, 9, 13, 2, 6, 10, 14, 3, 7, 11, 15] ++
  [0, 8, 4, 12, 2, 10, 6, 14, 1, 9, 5, 13, 3, 11, 7, 15]

/-- S_MD4, entry 4 r + (i mod 4) (R166). -/
def md4Shift : List Nat :=
  [3, 7, 11, 19] ++
  [3, 5, 9, 13] ++
  [3, 9, 11, 15]

/-- MD4 step t, without add-back of b (R167). -/
def md4Step (x : List Word32) (v : Vars4) (t : Nat) : Vars4 :=
  let r := t / 16
  let sum := v.a + md4Phi r v.b v.c v.d + x.getD (md4Index.getD t 0) 0 + md4K.getD r 0
  { a := v.d, b := rotl sum (md4Shift.getD (4 * r + t % 4) 0), c := v.b, d := v.c }

/-- PROCESS_MD4(H, BLK) (R168). -/
def processMD4 (h : List Word32) (blk : List Byte) : List Word32 :=
  let x := messageWords 32 4 .little blk
  ((List.range 48).foldl (md4Step x) (Vars4.load h)).feedForward h

end Sys2Proof.Machine
end

