-- ==== Sys2Proof/Machine/MD5.lean ====
section
/-! DEFINITION. MD5 compression, PROCESS_MD5 (spec/43_md5.md R180 to R187). -/

namespace Sys2Proof.Machine

/-- F (R181). -/
def md5F (x y z : Word32) : Word32 := (x &&& y) ||| (~~~x &&& z)

/-- G, not MD4's (R181). -/
def md5G (x y z : Word32) : Word32 := (x &&& z) ||| (y &&& ~~~z)

/-- H (R181). -/
def md5H (x y z : Word32) : Word32 := x ^^^ y ^^^ z

/-- I (R181). -/
def md5I (x y z : Word32) : Word32 := y ^^^ (x ||| ~~~z)

/-- The round function of round r (R186). -/
def md5Phi (r : Nat) (x y z : Word32) : Word32 :=
  match r with
  | 0 => md5F x y z
  | 1 => md5G x y z
  | 2 => md5H x y z
  | _ => md5I x y z

/-- The table T (R183). -/
def md5T : List Word32 :=
  [0xd76aa478#32, 0xe8c7b756#32, 0x242070db#32, 0xc1bdceee#32, 0xf57c0faf#32, 0x4787c62a#32, 0xa8304613#32, 0xfd469501#32] ++
  [0x698098d8#32, 0x8b44f7af#32, 0xffff5bb1#32, 0x895cd7be#32, 0x6b901122#32, 0xfd987193#32, 0xa679438e#32, 0x49b40821#32] ++
  [0xf61e2562#32, 0xc040b340#32, 0x265e5a51#32, 0xe9b6c7aa#32, 0xd62f105d#32, 0x02441453#32, 0xd8a1e681#32, 0xe7d3fbc8#32] ++
  [0x21e1cde6#32, 0xc33707d6#32, 0xf4d50d87#32, 0x455a14ed#32, 0xa9e3e905#32, 0xfcefa3f8#32, 0x676f02d9#32, 0x8d2a4c8a#32] ++
  [0xfffa3942#32, 0x8771f681#32, 0x6d9d6122#32, 0xfde5380c#32, 0xa4beea44#32, 0x4bdecfa9#32, 0xf6bb4b60#32, 0xbebfbc70#32] ++
  [0x289b7ec6#32, 0xeaa127fa#32, 0xd4ef3085#32, 0x04881d05#32, 0xd9d4d039#32, 0xe6db99e5#32, 0x1fa27cf8#32, 0xc4ac5665#32] ++
  [0xf4292244#32, 0x432aff97#32, 0xab9423a7#32, 0xfc93a039#32, 0x655b59c3#32, 0x8f0ccc92#32, 0xffeff47d#32, 0x85845dd1#32] ++
  [0x6fa87e4f#32, 0xfe2ce6e0#32, 0xa3014314#32, 0x4e0811a1#32, 0xf7537e82#32, 0xbd3af235#32, 0x2ad7d2bb#32, 0xeb86d391#32]

/-- The message-word index g(i) (R184). -/
def md5Index (i : Nat) : Nat :=
  match i / 16 with
  | 0 => i
  | 1 => (5 * i + 1) % 16
  | 2 => (3 * i + 5) % 16
  | _ => (7 * i) % 16

/-- S_MD5, entry 4 r + (i mod 4) (R185). -/
def md5Shift : List Nat :=
  [7, 12, 17, 22] ++
  [5, 9, 14, 20] ++
  [4, 11, 16, 23] ++
  [6, 10, 15, 21]

/-- MD5 step i, which adds b back after the rotation (R186). -/
def md5Step (m : List Word32) (v : Vars4) (i : Nat) : Vars4 :=
  let r := i / 16
  let sum := v.a + md5Phi r v.b v.c v.d + md5T.getD i 0 + m.getD (md5Index i) 0
  { a := v.d, b := v.b + rotl sum (md5Shift.getD (4 * r + i % 4) 0), c := v.b, d := v.c }

/-- PROCESS_MD5(H, BLK) (R187). -/
def processMD5 (h : List Word32) (blk : List Byte) : List Word32 :=
  let m := messageWords 32 4 .little blk
  ((List.range 64).foldl (md5Step m) (Vars4.load h)).feedForward h

end Sys2Proof.Machine
end

