-- ==== Sys2Proof/Config.lean ====
section
/-! DEFINITION. What an implementation fixes (the open parameter LEN_FIELD_64) and the free values the spec leaves
unspecified. A free value has no body: nothing in Lean can say what it is. -/

namespace Sys2Proof

/-- The two values of the open parameter LEN_FIELD_64 (spec/00_scope.md R7, 92 D6). -/
inductive LenField64 where
  | ref8
  | fips16
deriving DecidableEq, Repr

/-- The configuration of one engine instance. No command reads it but SET_MSG_SIZE and FINAL's room test, and none writes
it. It stands in State so that every statement holds for both values (log entry 10). -/
structure Config where
  lenField64 : LenField64
deriving DecidableEq, Repr

/-- Free value: MLEN after a failed UPDATE (R301, D9; log entry 8). The argument numbers the draw. -/
opaque Config.freeMlen : Nat → BitVec 64

/-- Free value: the bits of physical ChainingState word `i` that no operation reads (R24, D28; log entry 7). The first
argument numbers the draw, the second is the word. -/
opaque Config.freeWord : Nat → Nat → BitVec 64

/-- Free value: byte `a` of the physical buffer while no operation reads it (R31, D28; log entry 7). The first argument
numbers the draw, the second is the address. -/
opaque Config.freeByte : Nat → Nat → BitVec 8

end Sys2Proof
end

