-- ==== Sys2Proof/Machine/Params.lean ====
section
/-! DEFINITION. The sizes each algorithm fixes (spec/00_scope.md R6 to R8). -/

namespace Sys2Proof

/-- W, the word width in bits (R6). -/
def Alg.wordBits : Alg → Nat
  | .md4 => 32
  | .md5 => 32
  | .sha1 => 32
  | .sha224 => 32
  | .sha256 => 32
  | .sha384 => 64
  | .sha512 => 64

/-- B, the Block size in bytes (R6). -/
def Alg.blockBytes : Alg → Nat
  | .md4 => 64
  | .md5 => 64
  | .sha1 => 64
  | .sha224 => 64
  | .sha256 => 64
  | .sha384 => 128
  | .sha512 => 128

/-- NH, the number of ChainingState words (R6). -/
def Alg.chainWords : Alg → Nat
  | .md4 => 4
  | .md5 => 4
  | .sha1 => 5
  | .sha224 => 8
  | .sha256 => 8
  | .sha384 => 8
  | .sha512 => 8

/-- D, the Digest size in bytes (R6). -/
def Alg.digestBytes : Alg → Nat
  | .md4 => 16
  | .md5 => 16
  | .sha1 => 20
  | .sha224 => 28
  | .sha256 => 32
  | .sha384 => 48
  | .sha512 => 64

/-- NS, the number of compression steps (R6). -/
def Alg.steps : Alg → Nat
  | .md4 => 48
  | .md5 => 64
  | .sha1 => 80
  | .sha224 => 64
  | .sha256 => 64
  | .sha384 => 80
  | .sha512 => 80

/-- NW, the number of message words or schedule words (R6). -/
def Alg.scheduleWords : Alg → Nat
  | .md4 => 16
  | .md5 => 16
  | .sha1 => 80
  | .sha224 => 64
  | .sha256 => 64
  | .sha384 => 80
  | .sha512 => 80

/-- ORD, the byte order (R6). -/
def Alg.byteOrder : Alg → ByteOrder
  | .md4 => .little
  | .md5 => .little
  | .sha1 => .big
  | .sha224 => .big
  | .sha256 => .big
  | .sha384 => .big
  | .sha512 => .big

/-- F, the size of the trailing length field in bytes: 8, but for SHA-384 and SHA-512 under FIPS16 (R7). -/
def Alg.lengthBytes (alg : Alg) (cfg : Config) : Nat :=
  if alg.wordBits = 64 ∧ cfg.lenField64 = .fips16 then 16 else 8

/-- LIMIT, the message-length limit in bytes (R8). -/
def lengthLimit : Nat := 2 ^ 61

end Sys2Proof
end

