-- ==== Sys2Proof/Machine/State.lean ====
section
/-! DEFINITION. The state of one engine instance (spec/10_state.md), the reasons a step can stop, and the state at
power-on. -/

namespace Sys2Proof.Machine

/-- The lifecycle state machine LIFE (R27). -/
inductive Life where
  | unconfigured
  | ready
  | finalized
  | failed
deriving DecidableEq, Repr

/-- What the engine answers to a command that has a response (R86). -/
inductive Response where
  /-- RESULT of an UPDATE: true absorbed, false length overflow. -/
  | result (absorbed : Bool)
  /-- The Digest of a FINAL, byte 0 first. -/
  | digest (bytes : List Byte)
deriving DecidableEq, Repr

/-- The uses the spec leaves undefined, which end a run (R302, R305), and one reason of the model's own. -/
inductive Fault where
  /-- F1, raised by a step whose transaction has a reserved header (R304). Safe: the spec gives it no behaviour. -/
  | frReservedEncoding
  /-- F2, raised by RESET, UPDATE and FINAL before any INIT (R308). Safe: the spec gives it no behaviour. -/
  | frNoAlg
  /-- F3, raised by UPDATE after FINAL (R306). Safe: the spec gives it no behaviour. -/
  | frUpdateAfterFinal
  /-- F4, raised by a second FINAL (R306). Safe: the spec gives it no behaviour. -/
  | frFinalAfterFinal
  /-- F5, raised by UPDATE and FINAL after a length overflow (R307). Safe: the spec gives it no behaviour. -/
  | frUseAfterFail
  /-- The model's own: raised by an UPDATE with data or a FINAL in READY with OFF outside the Block, an address R50 says
  does not exist. Safe: R28 excludes such states, and no run reaches one (log entry 11). -/
  | blockIndexOutOfRange
deriving DecidableEq, Repr

/-- The transactions the model does not take as commands. -/
inductive Refusal where
  /-- An instruction without a meaning, named as the opcode table names it. No arm of exec uses it. Safe. -/
  | notModelled (mnemonic : String)
  /-- F6, raised by a step whose UPDATE transaction has a data count other than LEN (R309, R90, 93 U8: refuse). Safe. -/
  | frLenMismatch
  /-- Raised by a step whose INIT, RESET or FINAL transaction carries an operand (R85; log entry 2). Safe: the spec has no
  such transaction. -/
  | strayOperand
deriving DecidableEq, Repr

/-- A physical ChainingState word of 64 bits as its two halves: an algorithm with W = 32 uses the low half (R24). -/
structure HReg where
  hi : BitVec 32
  lo : BitVec 32
deriving DecidableEq, Repr

/-- Addressable bytes: pairs of address and byte in one canonical form (`Memory.wf`). An address with no pair reads as
0x00, the value of a cleared byte (R30). -/
abbrev Memory := List Host.Cell

/-- One engine instance with its command channel. The first seven fields are the state R20 gives an instance. -/
structure State where
  /-- ALG, the selected algorithm (R25). -/
  alg : Alg
  /-- LIFE (R27). -/
  life : Life
  /-- H, the physical ChainingState of eight words (R22, R24). -/
  h : Vector HReg 8
  /-- Bytes 0 to 63 of the physical Block buffer (R30, R31). -/
  blkLo : Memory
  /-- Bytes 64 to 127 of the physical Block buffer, part of BLK when B = 128 (R30, R31). -/
  blkHi : Memory
  /-- OFF, the fill offset (R28). -/
  off : Nat
  /-- MLEN, the MessageLength (R26). -/
  mlen : BitVec 64
  /-- The instance's fixed parameters (R7). -/
  cfg : Config
  /-- Transactions issued and not yet executed, in issue order (R62, R80). -/
  inbox : List Transaction
  /-- Responses delivered, in issue order (R62, R86). -/
  outbox : List Response
  /-- The model's own: how many free values have been drawn. -/
  freeCtr : Nat
deriving DecidableEq, Repr

/-- Power-on (R330, R36): LIFE is UNCONFIGURED. ALG, H, BLK, OFF and MLEN are unspecified, and hold the values log entry 6
names; LEN_FIELD_64 is REF8, the value the spec names (D26, log entry 10); the counter is log entry 9. -/
def State.reset : State where
  alg := .md4
  life := .unconfigured
  h := Vector.replicate 8 { hi := 0, lo := 0 }
  blkLo := []
  blkHi := []
  off := 0
  mlen := 0
  cfg := { lenField64 := .ref8 }
  inbox := []
  outbox := []
  freeCtr := 0

end Sys2Proof.Machine
end

