-- ==== Sys2Proof/Machine/Ops.lean ====
section
/-! DEFINITION. The named operations over the state: the Block's bytes, the ChainingState, the single registers, the
responses, and the one error of the engine (spec/10_state.md, spec/20_memory.md R50 to R54, spec/60_exceptions.md R301). -/

namespace Sys2Proof.Machine

/-! ### Addressable bytes -/

/-- The canonical form: addresses strictly rise, and no pair holds the value an unlisted address reads as. -/
abbrev Memory.wf (m : Memory) : Prop := m.Pairwise (fun x y => x.1 < y.1) ∧ ∀ c ∈ m, c.2 ≠ 0

/-- The byte at an address; an unlisted address reads as 0x00. -/
def Memory.read : Memory → Nat → Byte
  | [], _ => 0
  | (b, v) :: m, a => if a = b then v else Memory.read m a

/-- Writing one byte; writing 0x00 leaves no pair. -/
def Memory.write : Memory → Nat → Byte → Memory
  | [], a, v => if v = 0 then [] else [(a, v)]
  | (b, x) :: m, a, v =>
    if a < b then (if v = 0 then (b, x) :: m else (a, v) :: (b, x) :: m)
    else if a = b then (if v = 0 then m else (a, v) :: m)
    else (b, x) :: Memory.write m a v

/-! ### The Block -/

/-- `BLK[a]` (R12). -/
def State.readByte (s : State) (a : Nat) : Byte :=
  if a < 64 then s.blkLo.read a else s.blkHi.read a

/-- `BLK[a] <- v` (R12). -/
def State.writeByte (s : State) (a : Nat) (v : Byte) : State :=
  if a < 64 then { s with blkLo := s.blkLo.write a v } else { s with blkHi := s.blkHi.write a v }

/-- MemRead(a, n) (R12). -/
def State.memRead (s : State) (a n : Nat) : List Byte := (List.range n).map fun j => s.readByte (a + j)

/-- MemWrite(a, n, v), with n the length of v (R12). -/
def State.memWrite (s : State) (a : Nat) : List Byte → State
  | [] => s
  | v :: vs => (s.writeByte a v).memWrite (a + 1) vs

/-- Bytes 64 to 127 of the buffer while no operation reads them: any values (R31, D28; log entry 7). -/
@[irreducible] def unreadBlock (draw : Nat) : Memory :=
  (List.range' 64 64).foldl (fun m a => m.write a (Config.freeByte draw a)) []

/-- `for a in 0 .. B-1: BLK[a] <- 0x00` (R30, R108, R130). With B = 64 the bytes above B are unspecified. -/
def State.clearBlock (s : State) : State :=
  if s.alg.blockBytes = 128 then { s with blkLo := [], blkHi := [] }
  else { s with blkLo := [], blkHi := unreadBlock s.freeCtr, freeCtr := s.freeCtr + 1 }

/-! ### The ChainingState -/

/-- The 64-bit physical word (R24). -/
def HReg.word (r : HReg) : Word64 := r.hi ++ r.lo

/-- A 64-bit value as a physical word. -/
def HReg.ofWord (w : Word64) : HReg := { hi := w.extractLsb' 32 32, lo := w.extractLsb' 0 32 }

/-- Reading `H[0..NH-1]`: with W = 32 the low halves of the physical words, with W = 64 the whole words (R22, R24). -/
def State.chain (s : State) : Chain :=
  let words := s.h.toList.take s.alg.chainWords
  if s.alg.wordBits = 32 then .w32 (words.map HReg.lo) else .w64 (words.map HReg.word)

/-- Writing `H[0..NH-1]`. Under W = 32 the high halves and the words NH..7 are never read, and hold any values (R24, D28;
log entry 7). -/
def State.setChain (s : State) : Chain → State
  | .w32 ws =>
    { s with
      h := Vector.ofFn fun i => {
        hi := (Config.freeWord s.freeCtr i).extractLsb' 32 32
        lo := (ws[i.val]?).getD ((Config.freeWord s.freeCtr i).extractLsb' 0 32) }
      freeCtr := s.freeCtr + 1 }
  | .w64 ws => { s with h := Vector.ofFn fun i => HReg.ofWord (ws.getD i 0) }

/-! ### Single registers and responses -/

/-- `ALG <- alg` (R25). -/
def State.setAlg (s : State) (alg : Alg) : State := { s with alg := alg }

/-- `LIFE <- l` (R27). -/
def State.setLife (s : State) (l : Life) : State := { s with life := l }

/-- `OFF <- n` (R28). -/
def State.setOff (s : State) (n : Nat) : State := { s with off := n }

/-- `MLEN <- n`, a 64-bit register (R26). -/
def State.setMlen (s : State) (n : Nat) : State := { s with mlen := BitVec.ofNat 64 n }

/-- Delivering a response, after those of the commands before it (R62, R86). -/
def State.respond (s : State) (r : Response) : State := { s with outbox := s.outbox ++ [r] }

/-! ### The one error, and the lifecycle table

The engine has no trap mechanism: no vector, no saved state, no return (R313, R314). Its one error returns in-band. -/

/-- `raise LengthOverflow` (R301): LIFE becomes FAILED and UPDATE answers RESULT = 0. H, BLK and OFF are unchanged; MLEN is
unspecified, a free value (log entry 8). -/
def State.raiseLengthOverflow (s : State) : State :=
  ({ s with life := .failed, mlen := Config.freeMlen s.freeCtr, freeCtr := s.freeCtr + 1 }).respond (.result false)

/-- RESET's column of the lifecycle table (R118). -/
def Life.resetFault : Life → Option Fault
  | .unconfigured => some .frNoAlg
  | .ready => none
  | .finalized => none
  | .failed => none

/-- UPDATE's column of the lifecycle table (R118). -/
def Life.updateFault : Life → Option Fault
  | .unconfigured => some .frNoAlg
  | .ready => none
  | .finalized => some .frUpdateAfterFinal
  | .failed => some .frUseAfterFail

/-- FINAL's column of the lifecycle table (R118). -/
def Life.finalFault : Life → Option Fault
  | .unconfigured => some .frNoAlg
  | .ready => none
  | .finalized => some .frFinalAfterFinal
  | .failed => some .frUseAfterFail

end Sys2Proof.Machine
end

