-- ==== Sys2Proof/Machine/SHA1.lean ====
section
/-! DEFINITION. SHA-1 compression, PROCESS_SHA1 (spec/44_sha1.md R200 to R204). -/

namespace Sys2Proof.Machine

/-- The working variables of SHA-1 (R33). -/
structure Vars5 where
  a : Word32
  b : Word32
  c : Word32
  d : Word32
  e : Word32
deriving DecidableEq, Repr

/-- `(a, .., e) <- (H[0], .., H[4])` (R204). -/
def Vars5.load (h : List Word32) : Vars5 :=
  { a := h.getD 0 0, b := h.getD 1 0, c := h.getD 2 0, d := h.getD 3 0, e := h.getD 4 0 }

/-- The feed-forward (R204). -/
def Vars5.feedForward (v : Vars5) (h : List Word32) : List Word32 :=
  [h.getD 0 0 + v.a, h.getD 1 0 + v.b, h.getD 2 0 + v.c, h.getD 3 0 + v.d, h.getD 4 0 + v.e]

/-- Schedule word t from the words before it (R200). -/
def sha1ScheduleWord (wt : List Word32) (t : Nat) : Word32 :=
  rotl (wt.getD (t - 3) 0 ^^^ wt.getD (t - 8) 0 ^^^ wt.getD (t - 14) 0 ^^^ wt.getD (t - 16) 0) 1

/-- The schedule Wt[0..79] (R200). -/
def sha1Schedule (x : List Word32) : List Word32 :=
  (List.range' 16 64).foldl (fun wt t => wt ++ [sha1ScheduleWord wt t]) x

/-- f1 (R201). -/
def sha1F1 (b c d : Word32) : Word32 := (b &&& c) ||| (~~~b &&& d)

/-- f2, also f4 (R201). -/
def sha1F2 (b c d : Word32) : Word32 := b ^^^ c ^^^ d

/-- f3 (R201). -/
def sha1F3 (b c d : Word32) : Word32 := (b &&& c) ||| (b &&& d) ||| (c &&& d)

/-- The function of round r (R201, R203). -/
def sha1F (r : Nat) (b c d : Word32) : Word32 :=
  match r with
  | 0 => sha1F1 b c d
  | 1 => sha1F2 b c d
  | 2 => sha1F3 b c d
  | _ => sha1F2 b c d

/-- K_SHA1 (R202). -/
def sha1K : List Word32 := [0x5a827999#32, 0x6ed9eba1#32, 0x8f1bbcdc#32, 0xca62c1d6#32]

/-- SHA-1 step t (R203). -/
def sha1Step (wt : List Word32) (v : Vars5) (t : Nat) : Vars5 :=
  let r := t / 20
  { a := rotl v.a 5 + sha1F r v.b v.c v.d + v.e + sha1K.getD r 0 + wt.getD t 0,
    b := v.a, c := rotl v.b 30, d := v.c, e := v.d }

/-- PROCESS_SHA1(H, BLK) (R204). -/
def processSHA1 (h : List Word32) (blk : List Byte) : List Word32 :=
  let wt := sha1Schedule (messageWords 32 4 .big blk)
  ((List.range 80).foldl (sha1Step wt) (Vars5.load h)).feedForward h

end Sys2Proof.Machine
end

