-- ==== Sys2Proof/Machine/SHA2.lean ====
section
/-! DEFINITION. What the two SHA-2 families share at word width w: choice, majority, schedule, step and feed-forward
(spec/45_sha256.md R220, R224 to R226, spec/46_sha512.md R240, R244 to R246). -/

namespace Sys2Proof.Machine

/-- The working variables of SHA-2 (R33). -/
structure Vars8 (w : Nat) where
  a : BitVec w
  b : BitVec w
  c : BitVec w
  d : BitVec w
  e : BitVec w
  f : BitVec w
  g : BitVec w
  h : BitVec w
deriving DecidableEq, Repr

/-- `(a, .., h) <- (H[0], .., H[7])` (R226, R246). -/
def Vars8.load {w : Nat} (h : List (BitVec w)) : Vars8 w :=
  { a := h.getD 0 0, b := h.getD 1 0, c := h.getD 2 0, d := h.getD 3 0,
    e := h.getD 4 0, f := h.getD 5 0, g := h.getD 6 0, h := h.getD 7 0 }

/-- The feed-forward (R226, R246). -/
def Vars8.feedForward {w : Nat} (v : Vars8 w) (h : List (BitVec w)) : List (BitVec w) :=
  [h.getD 0 0 + v.a, h.getD 1 0 + v.b, h.getD 2 0 + v.c, h.getD 3 0 + v.d,
   h.getD 4 0 + v.e, h.getD 5 0 + v.f, h.getD 6 0 + v.g, h.getD 7 0 + v.h]

/-- CH (R220, R240). -/
def sha2Ch {w : Nat} (x y z : BitVec w) : BitVec w := (x &&& y) ^^^ (~~~x &&& z)

/-- MAJ (R220, R240). -/
def sha2Maj {w : Nat} (x y z : BitVec w) : BitVec w := (x &&& y) ^^^ (x &&& z) ^^^ (y &&& z)

/-- The functions and constants in which the two families differ. -/
structure Sha2Core (w : Nat) where
  ep0 : BitVec w → BitVec w
  ep1 : BitVec w → BitVec w
  sig0 : BitVec w → BitVec w
  sig1 : BitVec w → BitVec w
  k : List (BitVec w)
  steps : Nat

/-- Schedule word t from the words before it (R224, R244). -/
def sha2ScheduleWord {w : Nat} (core : Sha2Core w) (wt : List (BitVec w)) (t : Nat) : BitVec w :=
  core.sig1 (wt.getD (t - 2) 0) + wt.getD (t - 7) 0 + core.sig0 (wt.getD (t - 15) 0) + wt.getD (t - 16) 0

/-- The schedule (R224, R244). -/
def sha2Schedule {w : Nat} (core : Sha2Core w) (x : List (BitVec w)) : List (BitVec w) :=
  (List.range' 16 (core.steps - 16)).foldl (fun wt t => wt ++ [sha2ScheduleWord core wt t]) x

/-- Step t (R225, R245). -/
def sha2Step {w : Nat} (core : Sha2Core w) (wt : List (BitVec w)) (v : Vars8 w) (t : Nat) : Vars8 w :=
  let t1 := v.h + core.ep1 v.e + sha2Ch v.e v.f v.g + core.k.getD t 0 + wt.getD t 0
  let t2 := core.ep0 v.a + sha2Maj v.a v.b v.c
  { a := t1 + t2, b := v.a, c := v.b, d := v.c, e := v.d + t1, f := v.e, g := v.f, h := v.g }

/-- One compression on the message words of a Block (R226, R246). -/
def sha2Process {w : Nat} (core : Sha2Core w) (h x : List (BitVec w)) : List (BitVec w) :=
  ((List.range core.steps).foldl (sha2Step core (sha2Schedule core x)) (Vars8.load h)).feedForward h

end Sys2Proof.Machine
end

