-- ==== Sys2Proof/Machine/Strategy.lean ====
section
/-! DEFINITION. The Compression Strategy operations (spec/41_strategy.md R130 to R144) and COMPRESS (spec/40_engine.md
R108). -/

namespace Sys2Proof

/-- IV(ALG) (R131 to R137). -/
def Alg.iv : Alg → Chain
  | .md4 => .w32 [0x67452301#32, 0xefcdab89#32, 0x98badcfe#32, 0x10325476#32]
  | .md5 => .w32 [0x67452301#32, 0xefcdab89#32, 0x98badcfe#32, 0x10325476#32]
  | .sha1 => .w32 [0x67452301#32, 0xefcdab89#32, 0x98badcfe#32, 0x10325476#32, 0xc3d2e1f0#32]
  | .sha224 => .w32 [0xc1059ed8#32, 0x367cd507#32, 0x3070dd17#32, 0xf70e5939#32,
      0xffc00b31#32, 0x68581511#32, 0x64f98fa7#32, 0xbefa4fa4#32]
  | .sha256 => .w32 [0x6a09e667#32, 0xbb67ae85#32, 0x3c6ef372#32, 0xa54ff53a#32,
      0x510e527f#32, 0x9b05688c#32, 0x1f83d9ab#32, 0x5be0cd19#32]
  | .sha384 => .w64 [0xcbbb9d5dc1059ed8#64, 0x629a292a367cd507#64, 0x9159015a3070dd17#64, 0x152fecd8f70e5939#64,
      0x67332667ffc00b31#64, 0x8eb44a8768581511#64, 0xdb0c2e0d64f98fa7#64, 0x47b5481dbefa4fa4#64]
  | .sha512 => .w64 [0x6a09e667f3bcc908#64, 0xbb67ae8584caa73b#64, 0x3c6ef372fe94f82b#64, 0xa54ff53a5f1d36f1#64,
      0x510e527fade682d1#64, 0x9b05688c2b3e6c1f#64, 0x1f83d9abfb41bd6b#64, 0x5be0cd19137e2179#64]

namespace Machine

/-- The words of a 32-bit ChainingState value. -/
def chainWords32 : Chain → List Word32
  | .w32 ws => ws
  | .w64 _ => []

/-- The words of a 64-bit ChainingState value. -/
def chainWords64 : Chain → List Word64
  | .w32 _ => []
  | .w64 ws => ws

/-- PROCESS of the family of ALG, on the B bytes of the Block (R142). -/
def process (alg : Alg) (h : Chain) (blk : List Byte) : Chain :=
  match alg with
  | .md4 => .w32 (processMD4 (chainWords32 h) blk)
  | .md5 => .w32 (processMD5 (chainWords32 h) blk)
  | .sha1 => .w32 (processSHA1 (chainWords32 h) blk)
  | .sha224 => .w32 (processSHA256 (chainWords32 h) blk)
  | .sha256 => .w32 (processSHA256 (chainWords32 h) blk)
  | .sha384 => .w64 (processSHA512 (chainWords64 h) blk)
  | .sha512 => .w64 (processSHA512 (chainWords64 h) blk)

/-- COMPRESS: process the full Block, then clear it. OFF and MLEN are the caller's (R108). -/
def State.compress (s : State) : State :=
  (s.setChain (process s.alg s.chain (s.memRead 0 s.alg.blockBytes))).clearBlock

/-- STRAT_RESET (R130). -/
def State.stratReset (s : State) : State :=
  (((s.setChain s.alg.iv).clearBlock).setOff 0).setMlen 0

/-- SET_MSG_SIZE(bits): the bit length mod 2^(8F) in the trailing F bytes of the Block, in order ORD (R138). -/
def State.setMsgSize (s : State) (bits : Nat) : State :=
  let f := s.alg.lengthBytes s.cfg
  s.memWrite (s.alg.blockBytes - f) (toBytes s.alg.byteOrder f (bits % 2 ^ (8 * f)))

/-- A ChainingState value as bytes, words in index order, each in order ORD (R57, R140). -/
def chainBytes (ord : ByteOrder) : Chain → List Byte
  | .w32 ws => wordBytes 4 ord ws
  | .w64 ws => wordBytes 8 ord ws

/-- GET_DIGEST: the first D bytes of the serialized ChainingState (R140, R141). -/
def State.getDigest (s : State) : List Byte :=
  (chainBytes s.alg.byteOrder s.chain).take s.alg.digestBytes

end Machine

end Sys2Proof
end

