-- ==== Sys2Proof/Machine/Final.lean ====
section
/-! DEFINITION. FINAL: pad, compress once or twice, and answer the Digest (spec/40_engine.md R109 to R116). -/

namespace Sys2Proof.Machine

/-- The marker byte 0x80 at OFF and the zero fill above it (R111). -/
def State.pad (s : State) : State :=
  (s.writeByte s.off 0x80).memWrite (s.off + 1) (List.replicate (s.alg.blockBytes - (s.off + 1)) 0)

/-- The room test: marker and length field fit in the current Block (R112). -/
def State.hasRoom (s : State) : Bool :=
  decide (s.off + 1 + s.alg.lengthBytes s.cfg ≤ s.alg.blockBytes)

/-- The padding protocol: one compression where there is room (R113), else two, the second on a fresh Block that holds the
length field alone (R114). The bit length is exact (R110). -/
def State.padAndCompress (s : State) : State :=
  let bits := 8 * s.mlen.toNat
  if s.hasRoom then (s.pad.setMsgSize bits).compress
  else (s.pad.compress.setMsgSize bits).compress

/-- FINAL in READY (R109, R115). -/
def State.finish (s : State) : State :=
  let t := (s.padAndCompress.setOff 0).setLife .finalized
  t.respond (.digest t.getDigest)

/-- FINAL (R109). A marker written outside the Block, in READY with OFF >= B, is a state no run reaches (log entry 11). -/
def execFinal (s : State) : Host.Outcome State Fault Refusal :=
  match s.life.finalFault with
  | some f => .fault f
  | none => if s.off < s.alg.blockBytes then .next s.finish else .fault .blockIndexOutOfRange

end Sys2Proof.Machine
end

