-- ==== Sys2Proof/Machine/Init.lean ====
section
/-! DEFINITION. INIT and RESET: the commands that start a message (spec/40_engine.md R101, R102). -/

namespace Sys2Proof.Machine

/-- `STRAT_RESET(); LIFE <- READY`: a new message under the current ALG (R101, R102). -/
def State.startMessage (s : State) : State := s.stratReset.setLife .ready

/-- INIT(alg), defined in every LIFE state (R101). It has no response (R86). -/
def State.initialise (s : State) (alg : Alg) : State := (s.setAlg alg).startMessage

/-- INIT.MD4 (R101). -/
def execInitMD4 (s : State) : Host.Outcome State Fault Refusal := .next (s.initialise .md4)

/-- INIT.MD5 (R101). -/
def execInitMD5 (s : State) : Host.Outcome State Fault Refusal := .next (s.initialise .md5)

/-- INIT.SHA1 (R101). -/
def execInitSHA1 (s : State) : Host.Outcome State Fault Refusal := .next (s.initialise .sha1)

/-- INIT.SHA224 (R101). -/
def execInitSHA224 (s : State) : Host.Outcome State Fault Refusal := .next (s.initialise .sha224)

/-- INIT.SHA256 (R101). -/
def execInitSHA256 (s : State) : Host.Outcome State Fault Refusal := .next (s.initialise .sha256)

/-- INIT.SHA384 (R101). -/
def execInitSHA384 (s : State) : Host.Outcome State Fault Refusal := .next (s.initialise .sha384)

/-- INIT.SHA512 (R101). -/
def execInitSHA512 (s : State) : Host.Outcome State Fault Refusal := .next (s.initialise .sha512)

/-- RESET: start a new message, keeping ALG (R102). It has no response (R86). -/
def execReset (s : State) : Host.Outcome State Fault Refusal :=
  match s.life.resetFault with
  | some f => .fault f
  | none => .next s.startMessage

end Sys2Proof.Machine
end

