-- ==== Sys2Proof/Machine/Flags.lean ====
section
/-! DEFINITION. The engine has no status flags and no condition codes (spec/10_state.md R29), and no word operation has a
carry or an overflow output (spec/47_rotation_arith.md R260). The one bit a command computes is the length test of UPDATE,
which its response RESULT reports. -/

namespace Sys2Proof.Machine

/-- `MLEN + N > LIMIT`, exact, with no wrap-around of the sum (R104, D8). -/
def lengthOverflow (mlen : BitVec 64) (n : Nat) : Bool := decide (lengthLimit < mlen.toNat + n)

end Sys2Proof.Machine
end

