-- ==== Sys2Proof/Machine/Update.lean ====
section
/-! DEFINITION. UPDATE: absorb a byte sequence, all or nothing (spec/40_engine.md R103 to R107). -/

namespace Sys2Proof.Machine

/-- One input byte: written at BLK[OFF], OFF advanced, and the Block compressed and OFF returned to 0 as soon as it is full
(R105, R106). -/
def State.absorbByte (s : State) (b : Byte) : State :=
  let s := (s.writeByte s.off b).setOff (s.off + 1)
  if s.off = s.alg.blockBytes then s.compress.setOff 0 else s

/-- The bytes of one UPDATE, in index order (R51, R105). -/
def State.absorb (s : State) (data : List Byte) : State := data.foldl State.absorbByte s

/-- An accepted UPDATE: the bytes absorbed and `MLEN <- MLEN + N` (R103, R104). -/
def State.accept (s : State) (data : List Byte) : State :=
  ((s.absorb data).setMlen (s.mlen.toNat + data.length)).respond (.result true)

/-- UPDATE (R103). The lifecycle decides before the length test (R311), and a refused UPDATE touches no byte (R104). A byte
written outside the Block, in READY with OFF >= B, is a state no run reaches (log entry 11). -/
def execUpdate (data : List Byte) (s : State) : Host.Outcome State Fault Refusal :=
  match s.life.updateFault with
  | some f => .fault f
  | none =>
    if lengthOverflow s.mlen data.length then .next s.raiseLengthOverflow
    else if data ≠ [] ∧ s.alg.blockBytes ≤ s.off then .fault .blockIndexOutOfRange
    else .next (s.accept data)

end Sys2Proof.Machine
end

