-- ==== Sys2Proof/Machine/Dispatch.lean ====
section
/-! DEFINITION. One arm per command. -/

namespace Sys2Proof.Machine

def exec (i : Instr) (s : State) : Host.Outcome State Fault Refusal :=
  match i with
  | .initMD4 => Sys2Proof.Machine.execInitMD4 s
  | .initMD5 => Sys2Proof.Machine.execInitMD5 s
  | .initSHA1 => Sys2Proof.Machine.execInitSHA1 s
  | .initSHA224 => Sys2Proof.Machine.execInitSHA224 s
  | .initSHA256 => Sys2Proof.Machine.execInitSHA256 s
  | .initSHA384 => Sys2Proof.Machine.execInitSHA384 s
  | .initSHA512 => Sys2Proof.Machine.execInitSHA512 s
  | .reset => Sys2Proof.Machine.execReset s
  | .update data => Sys2Proof.Machine.execUpdate data s
  | .final => Sys2Proof.Machine.execFinal s

end Sys2Proof.Machine
end

