-- ==== Sys2Proof/Machine/Transact.lean ====
section
/-! DEFINITION. Executing one transaction (spec/30_encoding.md R80, spec/60_exceptions.md R302, R311). -/

namespace Sys2Proof.Machine

/-- The reason a transaction that is no command stops the machine: F1 is a fault (R304), F6 is refused (R309, 93 U8). -/
def rejected : DecodeError → Host.Outcome State Fault Refusal
  | .reservedEncoding => .fault .frReservedEncoding
  | .lenMismatch => .refused .frLenMismatch
  | .strayOperand => .refused .strayOperand

/-- One transaction: decoded, then executed. What the decoder rejects comes before every check of the command (R311). -/
def transact (t : Transaction) (s : State) : Host.Outcome State Fault Refusal :=
  match decode t with
  | .ok i => exec i s
  | .error e => rejected e

/-- The next step: the oldest transaction of the inbox, taken out of it. With none the engine is idle, and loses nothing
(R62, R312, R321; log entry 4). -/
def nextCommand (s : State) : Host.Outcome State Fault Refusal :=
  match s.inbox with
  | [] => .next s
  | t :: rest => transact t { s with inbox := rest }

end Sys2Proof.Machine
end

