-- ==== Sys2Proof/Machine/Step.lean ====
section
/-! DEFINITION. One step of the machine: one host command, atomic (spec/40_engine.md R100, spec/20_memory.md R62, R65). -/

namespace Sys2Proof.Machine

/-- One step. -/
def step (s : State) : Host.Outcome State Fault Refusal := nextCommand s

/-- `s` with the transaction of these bits as the next one of its inbox, where `step` takes it (log entry 13). -/
def State.withFetchWord (s : State) (nbits w : Nat) : State :=
  { s with inbox := transactionOfBits nbits w :: s.inbox }

end Sys2Proof.Machine
end

