-- ==== Sys2Proof/Machine/Assembly.lean ====
section
/-! DEFINITION. The text forms: assembler lines (spec/30_encoding.md R91), the pseudo-command HASH (R92) and the hex
rendering of byte sequences (spec/00_scope.md R14). Points R91 leaves open are in log entry 19. -/

namespace Sys2Proof.Machine

/-- A hex digit of either case as a number. -/
def hexDigit? (c : Char) : Option Nat :=
  let n := c.toNat
  if 48 ≤ n ∧ n ≤ 57 then some (n - 48)
  else if 97 ≤ n ∧ n ≤ 102 then some (n - 87)
  else if 65 ≤ n ∧ n ≤ 70 then some (n - 55)
  else none

/-- A decimal digit as a number. -/
def decDigit? (c : Char) : Option Nat :=
  if 48 ≤ c.toNat ∧ c.toNat ≤ 57 then some (c.toNat - 48) else none

/-- A number below 16 as a lowercase hex digit (R14). -/
def hexChar (n : Nat) : Char := if n < 10 then Char.ofNat (48 + n) else Char.ofNat (87 + n)

/-- Lowercase hex, two characters a byte, no separators, no prefix, byte 0 first (R14). -/
def hexRender (bs : List Byte) : List Char := bs.flatMap fun b => [hexChar (b.toNat / 16), hexChar (b.toNat % 16)]

/-- `rest` where the text is `word ++ rest`. -/
def afterWord : List Char → List Char → Option (List Char)
  | [], cs => some cs
  | _ :: _, [] => none
  | w :: ws, c :: cs => if w = c then afterWord ws cs else none

/-- The text without leading spaces. -/
def skipSpaces (cs : List Char) : List Char := cs.dropWhile (· = ' ')

/-- Nothing but spaces and a `; comment` is left of the line (R91). -/
def lineEnds (cs : List Char) : Bool :=
  match skipSpaces cs with
  | [] => true
  | c :: _ => c = ';'

/-- The ASCII bytes up to the closing quote, and the rest (R91). -/
def textBytes : List Char → Option (List Byte × List Char)
  | [] => none
  | c :: cs =>
    if c = '"' then some ([], cs)
    else if c.toNat < 128 then (textBytes cs).map fun (bs, rest) => (BitVec.ofNat 8 c.toNat :: bs, rest)
    else none

/-- Bytes of two hex digits each, byte 0 first, to the first character that is no hex digit (R91). -/
def hexBytes : List Char → Option (List Byte × List Char)
  | [] => some ([], [])
  | c :: cs =>
    match hexDigit? c, cs with
    | none, _ => some ([], c :: cs)
    | some _, [] => none
    | some hi, d :: rest =>
      match hexDigit? d with
      | none => none
      | some lo => (hexBytes rest).map fun (bs, rest) => (BitVec.ofNat 8 (16 * hi + lo) :: bs, rest)

/-- Decimal digits after the number read so far, and the rest. -/
def decimalFrom (n : Nat) : List Char → Nat × List Char
  | [] => (n, [])
  | c :: cs =>
    match decDigit? c with
    | some d => decimalFrom (10 * n + d) cs
    | none => (n, c :: cs)

/-- `<n>x<hh>`: n copies of one byte, and the rest (R91). -/
def repeatedByte : List Char → Option (List Byte × List Char)
  | [] => none
  | c :: cs =>
    match decDigit? c with
    | none => none
    | some d =>
      match decimalFrom d cs with
      | (n, 'x' :: h :: l :: rest) =>
        match hexDigit? h, hexDigit? l with
        | some hi, some lo => some (List.replicate n (BitVec.ofNat 8 (16 * hi + lo)), rest)
        | _, _ => none
      | _ => none

/-- The data operand of UPDATE and HASH: quoted text, `hex:` or `rep:` (R91). -/
def dataOperand (cs : List Char) : Option (List Byte × List Char) :=
  match afterWord ['"'] cs with
  | some rest => textBytes rest
  | none =>
    match afterWord "hex:".toList cs with
    | some rest => hexBytes rest
    | none =>
      match afterWord "rep:".toList cs with
      | some rest => repeatedByte rest
      | none => none

/-- The algorithm names of R91. -/
def algNames : List (List Char × Alg) :=
  [("MD4".toList, .md4), ("MD5".toList, .md5), ("SHA1".toList, .sha1), ("SHA224".toList, .sha224),
   ("SHA256".toList, .sha256), ("SHA384".toList, .sha384), ("SHA512".toList, .sha512)]

/-- An algorithm named by a whole word. -/
def algNamed (name : List Char) : Option Alg :=
  (algNames.find? fun p => p.1 = name).map Prod.snd

/-- The pseudo-command `HASH.<alg> <data>`: three commands (R92). -/
def hashCommands (alg : Alg) (data : List Byte) : List Instr := [.initOf alg, .update data, .final]

/-- The first word of a line, up to a space or a comment, and the rest. -/
def firstWord (cs : List Char) : List Char × List Char := cs.span fun c => c ≠ ' ' ∧ c ≠ ';'

/-- A mnemonic with a data operand, which ends the line. -/
def withData (cs : List Char) (f : List Byte → List Instr) : Option (List Instr) :=
  match dataOperand (skipSpaces cs) with
  | some (data, rest) => if lineEnds rest then some (f data) else none
  | none => none

/-- A mnemonic that ends the line. -/
def withoutData (cs : List Char) (i : Instr) : Option (List Instr) := if lineEnds cs then some [i] else none

/-- The commands of one line of text, `none` for a line that is none of R91's and R92's. A mnemonic is case-sensitive. A data
operand of 2^64 bytes or more, for which R84 has no LEN, is taken and gives an ill-formed UPDATE (DESIGN CHOICE, log entry
19). -/
def assembleLine (line : List Char) : Option (List Instr) :=
  match firstWord (skipSpaces line) with
  | (word, rest) =>
    if word = [] then some []
    else if word = "RESET".toList then withoutData rest .reset
    else if word = "FINAL".toList then withoutData rest .final
    else if word = "UPDATE".toList then withData rest fun data => [.update data]
    else
      match afterWord "INIT.".toList word with
      | some name => (algNamed name).bind fun alg => withoutData rest (.initOf alg)
      | none =>
        match afterWord "HASH.".toList word with
        | some name => (algNamed name).bind fun alg => withData rest (hashCommands alg)
        | none => none

/-- The transactions of a program, one line of text after the other. An ill-formed UPDATE becomes a malformed transaction,
which the decoder refuses (log entry 19). -/
def assemble : List (List Char) → Option (List Transaction)
  | [] => some []
  | line :: lines =>
    match assembleLine line, assemble lines with
    | some is, some ts => some (is.map encode ++ ts)
    | _, _ => none

end Sys2Proof.Machine
end

