-- ==== Sys2Proof/Machine/Fleet.lean ====
section
/-! DEFINITION. Sequences of transactions, on one instance (spec/20_memory.md R62) and on N_INST instances that share nothing
(spec/20_memory.md R68, spec/60_exceptions.md R319). -/

namespace Sys2Proof.Machine

/-- One more transaction for an instance. An instance that has stopped stays as it is: the faulted state is final (R305). -/
def deliver (t : Transaction) (o : Host.Outcome State Fault Refusal) : Host.Outcome State Fault Refusal :=
  match o with
  | .next s => transact t s
  | .fault f => .fault f
  | .refused r => .refused r

/-- The effect of a sequence of transactions is the composition of their effects in issue order (R62). -/
def deliverAll (ts : List Transaction) (o : Host.Outcome State Fault Refusal) : Host.Outcome State Fault Refusal :=
  ts.foldl (fun o t => deliver t o) o

/-- The effect of a sequence of commands, from a state. -/
def execAll (is : List Instr) (s : State) : Host.Outcome State Fault Refusal :=
  is.foldl (fun o i => match o with
    | .next s => exec i s
    | .fault f => .fault f
    | .refused r => .refused r) (.next s)

/-- N_INST instances, each running or stopped (R9, R319). -/
abbrev Fleet := List (Host.Outcome State Fault Refusal)

/-- `n` instances at power-on (R319, R330). R9 says N_INST >= 1; the model also takes n = 0, an empty list (DESIGN CHOICE,
log entry 16). -/
def Fleet.reset (n : Nat) : Fleet := List.replicate n (.next State.reset)

/-- A transaction to instance `k`. It reads and writes no other instance (R68). With `k` past the end of the list, a case the
spec does not have, nothing changes and the transaction is dropped (DESIGN CHOICE, log entry 16). -/
def Fleet.issue (fl : Fleet) (k : Nat) (t : Transaction) : Fleet := fl.modify k (deliver t)

/-- Transactions to several instances, in the order the host issues them. -/
def Fleet.run (fl : Fleet) (trace : List (Nat × Transaction)) : Fleet :=
  trace.foldl (fun fl c => fl.issue c.1 c.2) fl

/-- The transactions of a trace that go to instance `k`. -/
def transactionsTo (k : Nat) (trace : List (Nat × Transaction)) : List Transaction :=
  (trace.filter fun c => c.1 = k).map Prod.snd

end Sys2Proof.Machine
end

