-- ==== Sys2Proof/Machine/Reference.lean ====
section
/-! DEFINITION. The Digest of a whole message, as a function of the message alone: padding, one PROCESS per Block,
serialization (spec/40_engine.md R109 to R119, spec/41_strategy.md R140). The engine never runs it; statements compare the
engine with it. -/

namespace Sys2Proof.Machine

/-- The zero bytes between the marker and the length field: none but what fills the last Block, which is the marker's own
Block where marker and length field fit in it, and the next one where they do not (R111 to R114). -/
def padZeros (alg : Alg) (cfg : Config) (tail : Nat) : Nat :=
  let b := alg.blockBytes
  let f := alg.lengthBytes cfg
  if tail + 1 + f ≤ b then b - (tail + 1 + f) else 2 * b - (tail + 1 + f)

/-- The padded message: marker, zeros, and the bit length mod 2^(8F) in order ORD (R110, R138). -/
def paddedMessage (alg : Alg) (cfg : Config) (msg : List Byte) : List Byte :=
  let f := alg.lengthBytes cfg
  msg ++ [0x80] ++ List.replicate (padZeros alg cfg (msg.length % alg.blockBytes)) 0 ++
    toBytes alg.byteOrder f ((8 * msg.length) % 2 ^ (8 * f))

/-- One PROCESS for each whole Block of a byte sequence, in order (R106). -/
def processBlocks (alg : Alg) (h : Chain) (bytes : List Byte) : Chain :=
  (List.range (bytes.length / alg.blockBytes)).foldl
    (fun h j => process alg h ((bytes.drop (alg.blockBytes * j)).take alg.blockBytes)) h

/-- The Digest of a message. -/
def digestOf (alg : Alg) (cfg : Config) (msg : List Byte) : List Byte :=
  (chainBytes alg.byteOrder (processBlocks alg alg.iv (paddedMessage alg cfg msg))).take alg.digestBytes

end Sys2Proof.Machine
end

