-- ==== Sys2Proof/Safety.lean ====
section
/-! DEFINITION. What statements call a good state and a legal use: the invariant of the engine (spec/10_state.md R26, R28,
R32, R36, R37), the lifecycle's legal commands (spec/40_engine.md R118), reachable states, and when no host can tell two states
apart. -/

namespace Sys2Proof.Machine

/-- The two halves of the Block are in canonical form, and each holds its own addresses (R30: the buffer has 128 bytes; log
entry 12). -/
structure State.BlockWf (s : State) : Prop where
  lo_wf : s.blkLo.wf
  hi_wf : s.blkHi.wf
  lo_range : ∀ c ∈ s.blkLo, c.1 < 64
  hi_range : ∀ c ∈ s.blkHi, 64 ≤ c.1 ∧ c.1 < 128

/-- The invariant every step keeps. -/
structure State.Inv (s : State) : Prop extends State.BlockWf s where
  /-- Between commands, in READY, `0 <= OFF < B` (R28). -/
  off_lt : s.life = .ready → s.off < s.alg.blockBytes
  /-- In READY the Block is zero from OFF on, and `MLEN mod B = OFF` (R32). -/
  tail_zero : s.life = .ready → ∀ a, s.off ≤ a → a < s.alg.blockBytes → s.readByte a = 0
  mlen_mod : s.life = .ready → s.mlen.toNat % s.alg.blockBytes = s.off
  /-- MLEN is in [0, 2^61] whenever LIFE is READY or FINALIZED (R26). -/
  mlen_le : s.life = .ready ∨ s.life = .finalized → s.mlen.toNat ≤ lengthLimit
  /-- After FINAL the Block is all zero and OFF = 0 (R36, R37). -/
  final_off : s.life = .finalized → s.off = 0
  final_zero : s.life = .finalized → ∀ a, a < s.alg.blockBytes → s.readByte a = 0

/-- The lifecycle table gives the command a behaviour in this LIFE state (R118). -/
def Life.allows (l : Life) : Instr → Bool
  | .initMD4 => true
  | .initMD5 => true
  | .initSHA1 => true
  | .initSHA224 => true
  | .initSHA256 => true
  | .initSHA384 => true
  | .initSHA512 => true
  | .reset => l.resetFault = none
  | .update _ => l.updateFault = none
  | .final => l.finalFault = none

/-- States a run reaches from power-on, with the host free to put transactions into the inbox between steps and the
parameter LEN_FIELD_64 free (R7, R330). -/
inductive Reachable : State → Prop where
  | powerOn (cfg : Config) : Reachable { State.reset with cfg := cfg }
  | issue (s : State) (t : Transaction) : Reachable s → Reachable { s with inbox := s.inbox ++ [t] }
  | step (s t : State) : Reachable s → Machine.step s = .next t → Reachable t

/-- Two states that differ only in values no defined command reads before it writes them, so that no host can tell them
apart. In UNCONFIGURED that is everything but LIFE (R330); in FAILED and FINALIZED it is H, BLK, OFF and MLEN (R301, R37); in
READY it is the physical bits that are never read (R24, R31). -/
structure SameToHost (s t : State) : Prop where
  life : s.life = t.life
  cfg : s.cfg = t.cfg
  inbox : s.inbox = t.inbox
  outbox : s.outbox = t.outbox
  alg : s.life ≠ .unconfigured → s.alg = t.alg
  chain : s.life = .ready → s.chain = t.chain
  block : s.life = .ready → ∀ a, a < s.alg.blockBytes → s.readByte a = t.readByte a
  off : s.life = .ready → s.off = t.off
  mlen : s.life = .ready → s.mlen = t.mlen

/-- Two outcomes that no host can tell apart. -/
def SameOutcomeToHost : Host.Outcome State Fault Refusal → Host.Outcome State Fault Refusal → Prop
  | .next s, .next t => SameToHost s t
  | .fault f, .fault g => f = g
  | .refused r, .refused q => r = q
  | _, _ => False

end Sys2Proof.Machine
end

