-- ==== Sys2Proof/Certificates/Slice0/Obligations.lean ====
section
/-! DEFINITION. The statements for the provers. Each docstring names the rules of spec/ it formalises. A statement about a
state that no run reaches carries the invariant `State.Inv` as a premise; `StepKeepsInvariant` and `ReachableStatesKeepInvariant`
say that it is one. No statement rests on a free value, on a power-on value of log entry 6, or on the counter `freeCtr`. -/

open Sys2Proof Sys2Proof.Machine

/-! ### Words the statements share -/

/-- `t` is a new message under `alg` (R36's columns INIT and RESET), and everything else is as in `s`. -/
def Sys2Proof.Statements.FreshMessage (alg : Alg) (iv : Chain) (s t : State) : Prop :=
  t.alg = alg ∧ t.life = .ready ∧ t.chain = iv ∧ (∀ a, a < alg.blockBytes → t.readByte a = 0) ∧
  t.off = 0 ∧ t.mlen = 0 ∧ t.cfg = s.cfg ∧ t.inbox = s.inbox ∧ t.outbox = s.outbox

/-- Everything but the response list and the model's counter is the same, to every byte the algorithm has. -/
def Sys2Proof.Statements.SameRegisters (s t : State) : Prop :=
  t.alg = s.alg ∧ t.life = s.life ∧ t.h = s.h ∧ t.blkLo = s.blkLo ∧ t.blkHi = s.blkHi ∧ t.off = s.off ∧
  t.mlen = s.mlen ∧ t.cfg = s.cfg ∧ t.inbox = s.inbox

/-- The bytes of the current Block below OFF: the tail of the message not yet compressed (R30). -/
def Sys2Proof.Statements.pending (s : State) : List Byte := s.memRead 0 s.off

/-- The length field of R138: the bit length mod 2^(8F), F bytes, in order ORD. -/
def Sys2Proof.Statements.lengthField (s : State) : List Byte :=
  toBytes s.alg.byteOrder (s.alg.lengthBytes s.cfg) (8 * s.mlen.toNat % 2 ^ (8 * s.alg.lengthBytes s.cfg))

/-- Zero bytes. -/
def Sys2Proof.Statements.zeros (n : Nat) : List Byte := List.replicate n 0

/-- The padded Block of "abc" for MD4 and MD5 (95 section 4). -/
def Sys2Proof.Statements.abcLittle : List Byte := [0x61, 0x62, 0x63, 0x80] ++ zeros 52 ++ [0x18, 0, 0, 0, 0, 0, 0, 0]

/-- The padded Block of "abc", of `b` bytes, for SHA-1 and SHA-2 (95 section 4). -/
def Sys2Proof.Statements.abcBig (b : Nat) : List Byte := [0x61, 0x62, 0x63, 0x80] ++ zeros (b - 5) ++ [0x18]

/-- The big-endian 32-bit words of that Block. -/
def Sys2Proof.Statements.abcWords32 : List Word32 := messageWords 32 4 .big (abcBig 64)

/-- MD4's working variables after the first n steps on that Block. -/
def Sys2Proof.Statements.md4VarsAfter (n : Nat) : Vars4 :=
  (List.range n).foldl (md4Step (messageWords 32 4 .little abcLittle)) (Vars4.load (chainWords32 Alg.md4.iv))

/-- MD5's. -/
def Sys2Proof.Statements.md5VarsAfter (n : Nat) : Vars4 :=
  (List.range n).foldl (md5Step (messageWords 32 4 .little abcLittle)) (Vars4.load (chainWords32 Alg.md5.iv))

/-- SHA-1's. -/
def Sys2Proof.Statements.sha1VarsAfter (n : Nat) : Vars5 :=
  (List.range n).foldl (sha1Step (sha1Schedule abcWords32)) (Vars5.load (chainWords32 Alg.sha1.iv))

/-- SHA-256's. -/
def Sys2Proof.Statements.sha256VarsAfter (n : Nat) : Vars8 32 :=
  (List.range n).foldl (sha2Step sha256Core (sha2Schedule sha256Core abcWords32))
    (Vars8.load (chainWords32 Alg.sha256.iv))

/-- SHA-512's. -/
def Sys2Proof.Statements.sha512VarsAfter (n : Nat) : Vars8 64 :=
  (List.range n).foldl (sha2Step sha512Core (sha2Schedule sha512Core (messageWords 64 8 .big (abcBig 128))))
    (Vars8.load (chainWords64 Alg.sha512.iv))

/-- The first 80 primes, those below 410. -/
def Sys2Proof.Statements.primes : List Nat :=
  (List.range 410).filter fun n => decide (2 ≤ n) && (List.range' 2 (n - 2)).all fun d => decide (n % d ≠ 0)

/-- `w` is the first 64 bits of the fractional part of the n-th root of p: with the whole part k, the root of p times 2^64
rounds down to `k 2^64 + w`. -/
def Sys2Proof.Statements.isRootFraction (n p w : Nat) : Bool :=
  decide (w < 2 ^ 64) && (List.range 32).any fun k =>
    decide ((k * 2 ^ 64 + w) ^ n ≤ p * 2 ^ (64 * n)) && decide (p * 2 ^ (64 * n) < (k * 2 ^ 64 + w + 1) ^ n)

open Sys2Proof.Statements

/-! ### Encoding -/

/-- R87, R88, R304: a header is legal exactly when it is one of the ten words of the opcode table, and then it is that row's
command; in fields, the reserved ones are those R88 lists; a step on a reserved header faults F1 in every state and whatever
follows the header. -/
def Obligations.HeaderLegalExactlyInTable : Prop :=
  ∀ cmd : BitVec 32,
    (∀ h : Header, decodeHeader cmd = some h ↔ (cmd, h) ∈
      [(0x10000000#32, Header.init .md4), (0x11000000#32, .init .md5), (0x12000000#32, .init .sha1),
       (0x13000000#32, .init .sha224), (0x14000000#32, .init .sha256), (0x15000000#32, .init .sha384),
       (0x16000000#32, .init .sha512), (0x20000000#32, .reset), (0x30000000#32, .update), (0x40000000#32, .final)]) ∧
    (decodeHeader cmd = none ↔
      (opField cmd = 0 ∨ 5 ≤ (opField cmd).toNat) ∨ (opField cmd = 1 ∧ 7 ≤ (algField cmd).toNat) ∨
      ((opField cmd = 2 ∨ opField cmd = 3 ∨ opField cmd = 4) ∧ algField cmd ≠ 0) ∨ rsvdField cmd ≠ 0) ∧
    (decodeHeader cmd = none → ∀ (s : State) (len : Option (BitVec 64)) (data : List Byte) (rest : List Transaction),
      s.inbox = { cmd := cmd, len := len, data := data } :: rest → step s = .fault .frReservedEncoding)

/-- R80, R84, R85, R87: decoding undoes encoding on every well-formed command, and every transaction the decoder takes is
the encoding of a well-formed command: no bit of a transaction is dropped and none is free. -/
def Obligations.DecodeEncodeInverse : Prop :=
  (∀ i : Instr, i.wellFormed = true → decode (encode i) = .ok i) ∧
  (∀ (t : Transaction) (i : Instr), decode t = .ok i → i.wellFormed = true ∧ encode i = t)

/-- The ten words of the opcode table, an UPDATE of two bytes, and reserved words of spec/95_test_vectors.md section 6. -/
def Obligations.SpecWordsDecode : Prop :=
  ([0x10000000, 0x11000000, 0x12000000, 0x13000000, 0x14000000, 0x15000000, 0x16000000, 0x20000000, 0x30000000,
    0x40000000].map (decodeTableWord 32) =
   [some .initMD4, some .initMD5, some .initSHA1, some .initSHA224, some .initSHA256, some .initSHA384, some .initSHA512,
    some .reset, some (.update []), some .final]) ∧
  ([0x17000000, 0x1f000000, 0x21000000, 0x30000001, 0x00000000, 0x50000000, 0xf6000000].map (decodeTableWord 32) =
   [none, none, none, none, none, none, none]) ∧
  decode { cmd := 0x30000000#32, len := some 2#64, data := [0x62#8, 0x63#8] } = .ok (.update [0x62#8, 0x63#8])

/-- R90, R309, R311: an UPDATE whose data count differs from LEN is refused as F6 in every state, before the lifecycle is
looked at; one whose count is LEN is executed. The refusal (not a fault) is 93 U8's treatment. That an UPDATE header with no
LEN at all, whatever data follow it, is refused in the same way is the model's choice. Both are log entry 3. -/
def Obligations.MalformedUpdateRefused : Prop :=
  (∀ (s : State) (n : BitVec 64) (data : List Byte) (rest : List Transaction),
    s.inbox = { cmd := 0x30000000#32, len := some n, data := data } :: rest →
    (n.toNat ≠ data.length → step s = .refused .frLenMismatch) ∧
    (n.toNat = data.length → step s = exec (.update data) { s with inbox := rest })) ∧
  (∀ (s : State) (data : List Byte) (rest : List Transaction),
    s.inbox = { cmd := 0x30000000#32, len := none, data := data } :: rest → step s = .refused .frLenMismatch)

/-- R62, R100: a step runs the oldest transaction of the inbox, decoded, on the state without that transaction. The second
clause says the same of the bits the host places. The inbox is the model's form of issue order (log entry 1). -/
def Obligations.StepRunsDecodedCommand : Prop :=
  (∀ (s : State) (t : Transaction) (rest : List Transaction) (i : Instr),
    s.inbox = t :: rest → decode t = .ok i → step s = exec i { s with inbox := rest }) ∧
  (∀ (s : State) (nbits w : Nat) (i : Instr),
    decodeTableWord nbits w = some i → step (s.withFetchWord nbits w) = exec i s)

/-- R321, R312: with no command issued the engine is idle and loses nothing. That a step is then no change is log entry 4. -/
def Obligations.IdleStepLosesNothing : Prop :=
  ∀ s : State, s.inbox = [] → step s = .next s

/-- R91, R92: the text `HASH.<alg> hex:<digits>` is INIT, UPDATE and FINAL, and `UPDATE hex:<digits>` is UPDATE, for the
lowercase hex digits of every byte sequence (R14). That it holds of 2^64 bytes and more too is the model's choice (log entry
19). -/
def Obligations.HexTextAssembles : Prop :=
  (∀ data : List Byte, assembleLine ("UPDATE hex:".toList ++ hexRender data) = some [.update data]) ∧
  (∀ (name : List Char) (alg : Alg) (data : List Byte), (name, alg) ∈ algNames →
    assembleLine ("HASH.".toList ++ name ++ " hex:".toList ++ hexRender data) =
      some [.initOf alg, .update data, .final])

/-! ### Parameters and word units -/

/-- R6: the table of sizes. -/
def Obligations.ParameterTable : Prop :=
  ([Alg.md4, .md5, .sha1, .sha224, .sha256, .sha384, .sha512].map fun a =>
    (a.wordBits, a.blockBytes, a.chainWords, a.digestBytes, a.steps, a.scheduleWords, a.byteOrder)) =
  [(32, 64, 4, 16, 48, 16, .little), (32, 64, 4, 16, 64, 16, .little), (32, 64, 5, 20, 80, 80, .big),
   (32, 64, 8, 28, 64, 64, .big), (32, 64, 8, 32, 64, 64, .big), (64, 128, 8, 48, 80, 80, .big),
   (64, 128, 8, 64, 80, 80, .big)]

/-- R263, R264: the value of a rotation by any n, at both widths, as arithmetic on numbers. -/
def Obligations.RotationFormulas : Prop :=
  ∀ w : Nat, (w = 32 ∨ w = 64) → ∀ (x : BitVec w) (n : Nat),
    (n % w = 0 → rotl x n = x ∧ rotr x n = x) ∧
    (n % w ≠ 0 →
      (rotl x n).toNat = (x.toNat * 2 ^ (n % w)) % 2 ^ w ||| x.toNat / 2 ^ (w - n % w) ∧
      (rotr x n).toNat = x.toNat / 2 ^ (n % w) ||| (x.toNat * 2 ^ (w - n % w)) % 2 ^ w)

/-- R266: the rotation laws, for every n. -/
def Obligations.RotationLaws : Prop :=
  ∀ w : Nat, (w = 32 ∨ w = 64) → ∀ (x : BitVec w) (n : Nat),
    rotl (rotr x n) n = x ∧ rotl x 0 = x ∧ rotl x w = x

/-- R267: a rotation left by n is one right by W - n mod W; n and n + W rotate alike; all zeros and all ones are fixed. -/
def Obligations.RotationCornerCases : Prop :=
  ∀ w : Nat, (w = 32 ∨ w = 64) → ∀ (x : BitVec w) (n : Nat),
    (n % w ≠ 0 → rotl x n = rotr x (w - n % w)) ∧
    rotl x (w + n) = rotl x n ∧ rotr x (w + n) = rotr x n ∧
    rotl (0 : BitVec w) n = 0 ∧ rotr (0 : BitVec w) n = 0 ∧
    rotl (BitVec.allOnes w) n = BitVec.allOnes w ∧ rotr (BitVec.allOnes w) n = BitVec.allOnes w

/-- R55: the 16 message words of a Block: little-endian 32-bit, big-endian 32-bit, big-endian 64-bit, byte by byte. -/
def Obligations.MessageWordAssembly : Prop :=
  ∀ (s : State) (i : Nat), i < 16 →
    (s.alg.wordBits = 32 →
      ((messageWords 32 4 .little (s.memRead 0 s.alg.blockBytes)).getD i 0).toNat =
        (s.readByte (4 * i)).toNat + 2 ^ 8 * (s.readByte (4 * i + 1)).toNat +
        2 ^ 16 * (s.readByte (4 * i + 2)).toNat + 2 ^ 24 * (s.readByte (4 * i + 3)).toNat ∧
      ((messageWords 32 4 .big (s.memRead 0 s.alg.blockBytes)).getD i 0).toNat =
        2 ^ 24 * (s.readByte (4 * i)).toNat + 2 ^ 16 * (s.readByte (4 * i + 1)).toNat +
        2 ^ 8 * (s.readByte (4 * i + 2)).toNat + (s.readByte (4 * i + 3)).toNat) ∧
    (s.alg.wordBits = 64 →
      ((messageWords 64 8 .big (s.memRead 0 s.alg.blockBytes)).getD i 0).toNat =
        2 ^ 56 * (s.readByte (8 * i)).toNat + 2 ^ 48 * (s.readByte (8 * i + 1)).toNat +
        2 ^ 40 * (s.readByte (8 * i + 2)).toNat + 2 ^ 32 * (s.readByte (8 * i + 3)).toNat +
        2 ^ 24 * (s.readByte (8 * i + 4)).toNat + 2 ^ 16 * (s.readByte (8 * i + 5)).toNat +
        2 ^ 8 * (s.readByte (8 * i + 6)).toNat + (s.readByte (8 * i + 7)).toNat)

/-- R200, R224, R244: the schedules. The first 16 words are the message words, and every later word, up to the last, is the
recurrence of the words of the same schedule before it. -/
def Obligations.ScheduleRecurrences : Prop :=
  (∀ x : List Word32, x.length = 16 →
    (sha1Schedule x).length = 80 ∧
    (∀ t, t < 16 → (sha1Schedule x).getD t 0 = x.getD t 0) ∧
    (∀ t, 16 ≤ t → t < 80 → (sha1Schedule x).getD t 0 =
      rotl ((sha1Schedule x).getD (t - 3) 0 ^^^ (sha1Schedule x).getD (t - 8) 0 ^^^
        (sha1Schedule x).getD (t - 14) 0 ^^^ (sha1Schedule x).getD (t - 16) 0) 1)) ∧
  (∀ x : List Word32, x.length = 16 →
    (sha2Schedule sha256Core x).length = 64 ∧
    (∀ t, t < 16 → (sha2Schedule sha256Core x).getD t 0 = x.getD t 0) ∧
    (∀ t, 16 ≤ t → t < 64 → (sha2Schedule sha256Core x).getD t 0 =
      sha256Sig1 ((sha2Schedule sha256Core x).getD (t - 2) 0) + (sha2Schedule sha256Core x).getD (t - 7) 0 +
        sha256Sig0 ((sha2Schedule sha256Core x).getD (t - 15) 0) + (sha2Schedule sha256Core x).getD (t - 16) 0)) ∧
  (∀ x : List Word64, x.length = 16 →
    (sha2Schedule sha512Core x).length = 80 ∧
    (∀ t, t < 16 → (sha2Schedule sha512Core x).getD t 0 = x.getD t 0) ∧
    (∀ t, 16 ≤ t → t < 80 → (sha2Schedule sha512Core x).getD t 0 =
      sha512Sig1 ((sha2Schedule sha512Core x).getD (t - 2) 0) + (sha2Schedule sha512Core x).getD (t - 7) 0 +
        sha512Sig0 ((sha2Schedule sha512Core x).getD (t - 15) 0) + (sha2Schedule sha512Core x).getD (t - 16) 0))

/-- R161 to R163, R181, R201, R220, R240: the round functions, bit by bit: choices, majorities, parities, and MD5's I. -/
def Obligations.RoundFunctionsBitwise : Prop :=
  (∀ (x y z : Word32) (i : Nat), i < 32 →
    (md4F x y z).getLsbD i = (if x.getLsbD i then y.getLsbD i else z.getLsbD i) ∧
    (md4G x y z).getLsbD i = Bool.atLeastTwo (x.getLsbD i) (y.getLsbD i) (z.getLsbD i) ∧
    (md4H x y z).getLsbD i = Bool.xor (Bool.xor (x.getLsbD i) (y.getLsbD i)) (z.getLsbD i) ∧
    (md5F x y z).getLsbD i = (if x.getLsbD i then y.getLsbD i else z.getLsbD i) ∧
    (md5G x y z).getLsbD i = (if z.getLsbD i then x.getLsbD i else y.getLsbD i) ∧
    (md5H x y z).getLsbD i = Bool.xor (Bool.xor (x.getLsbD i) (y.getLsbD i)) (z.getLsbD i) ∧
    (md5I x y z).getLsbD i = (if x.getLsbD i ∨ z.getLsbD i = false then !y.getLsbD i else y.getLsbD i) ∧
    (sha1F1 x y z).getLsbD i = (if x.getLsbD i then y.getLsbD i else z.getLsbD i) ∧
    (sha1F2 x y z).getLsbD i = Bool.xor (Bool.xor (x.getLsbD i) (y.getLsbD i)) (z.getLsbD i) ∧
    (sha1F3 x y z).getLsbD i = Bool.atLeastTwo (x.getLsbD i) (y.getLsbD i) (z.getLsbD i)) ∧
  (∀ w : Nat, (w = 32 ∨ w = 64) → ∀ (x y z : BitVec w) (i : Nat), i < w →
    (sha2Ch x y z).getLsbD i = (if x.getLsbD i then y.getLsbD i else z.getLsbD i) ∧
    (sha2Maj x y z).getLsbD i = Bool.atLeastTwo (x.getLsbD i) (y.getLsbD i) (z.getLsbD i))

/-- R221, R222, R241, R242: the sigma functions, bit by bit. In SIG0 and SIG1 the third term is a shift: at the top of the
word it contributes 0. -/
def Obligations.SigmaFunctionsBitwise : Prop :=
  (∀ (x : Word32) (i : Nat), i < 32 →
    (sha256Ep0 x).getLsbD i =
      Bool.xor (Bool.xor (x.getLsbD ((i + 2) % 32)) (x.getLsbD ((i + 13) % 32))) (x.getLsbD ((i + 22) % 32)) ∧
    (sha256Ep1 x).getLsbD i =
      Bool.xor (Bool.xor (x.getLsbD ((i + 6) % 32)) (x.getLsbD ((i + 11) % 32))) (x.getLsbD ((i + 25) % 32)) ∧
    (sha256Sig0 x).getLsbD i = Bool.xor (Bool.xor (x.getLsbD ((i + 7) % 32)) (x.getLsbD ((i + 18) % 32)))
      (if i + 3 < 32 then x.getLsbD (i + 3) else false) ∧
    (sha256Sig1 x).getLsbD i = Bool.xor (Bool.xor (x.getLsbD ((i + 17) % 32)) (x.getLsbD ((i + 19) % 32)))
      (if i + 10 < 32 then x.getLsbD (i + 10) else false)) ∧
  (∀ (x : Word64) (i : Nat), i < 64 →
    (sha512Ep0 x).getLsbD i =
      Bool.xor (Bool.xor (x.getLsbD ((i + 28) % 64)) (x.getLsbD ((i + 34) % 64))) (x.getLsbD ((i + 39) % 64)) ∧
    (sha512Ep1 x).getLsbD i =
      Bool.xor (Bool.xor (x.getLsbD ((i + 14) % 64)) (x.getLsbD ((i + 18) % 64))) (x.getLsbD ((i + 41) % 64)) ∧
    (sha512Sig0 x).getLsbD i = Bool.xor (Bool.xor (x.getLsbD ((i + 1) % 64)) (x.getLsbD ((i + 8) % 64)))
      (if i + 7 < 64 then x.getLsbD (i + 7) else false) ∧
    (sha512Sig1 x).getLsbD i = Bool.xor (Bool.xor (x.getLsbD ((i + 19) % 64)) (x.getLsbD ((i + 61) % 64)))
      (if i + 6 < 64 then x.getLsbD (i + 6) else false))

/-- R164 to R169, R183 to R187: MD4 and MD5 compression of any Block from any ChainingState, as the sequence of their
48 and 64 steps and the feed-forward, with every table written out. MD4 does not add b back, MD5 does. -/
def Obligations.MDCompressionSteps : Prop :=
  ∀ (h : List Word32) (blk : List Byte),
    let x := messageWords 32 4 .little blk
    let index4 : List Nat :=
      [0, 1, 2, 3, 4, 5, 6, 7, 8, 9, 10, 11, 12, 13, 14, 15] ++
      [0, 4, 8, 12, 1, 5, 9, 13, 2, 6, 10, 14, 3, 7, 11, 15] ++
      [0, 8, 4, 12, 2, 10, 6, 14, 1, 9, 5, 13, 3, 11, 7, 15]
    let shift4 : List Nat :=
      [3, 7, 11, 19] ++
      [3, 5, 9, 13] ++
      [3, 9, 11, 15]
    let t5 : List Word32 :=
      [0xd76aa478#32, 0xe8c7b756#32, 0x242070db#32, 0xc1bdceee#32, 0xf57c0faf#32, 0x4787c62a#32, 0xa8304613#32, 0xfd469501#32] ++
      [0x698098d8#32, 0x8b44f7af#32, 0xffff5bb1#32, 0x895cd7be#32, 0x6b901122#32, 0xfd987193#32, 0xa679438e#32, 0x49b40821#32] ++
      [0xf61e2562#32, 0xc040b340#32, 0x265e5a51#32, 0xe9b6c7aa#32, 0xd62f105d#32, 0x02441453#32, 0xd8a1e681#32, 0xe7d3fbc8#32] ++
      [0x21e1cde6#32, 0xc33707d6#32, 0xf4d50d87#32, 0x455a14ed#32, 0xa9e3e905#32, 0xfcefa3f8#32, 0x676f02d9#32, 0x8d2a4c8a#32] ++
      [0xfffa3942#32, 0x8771f681#32, 0x6d9d6122#32, 0xfde5380c#32, 0xa4beea44#32, 0x4bdecfa9#32, 0xf6bb4b60#32, 0xbebfbc70#32] ++
      [0x289b7ec6#32, 0xeaa127fa#32, 0xd4ef3085#32, 0x04881d05#32, 0xd9d4d039#32, 0xe6db99e5#32, 0x1fa27cf8#32, 0xc4ac5665#32] ++
      [0xf4292244#32, 0x432aff97#32, 0xab9423a7#32, 0xfc93a039#32, 0x655b59c3#32, 0x8f0ccc92#32, 0xffeff47d#32, 0x85845dd1#32] ++
      [0x6fa87e4f#32, 0xfe2ce6e0#32, 0xa3014314#32, 0x4e0811a1#32, 0xf7537e82#32, 0xbd3af235#32, 0x2ad7d2bb#32, 0xeb86d391#32]
    let shift5 : List Nat :=
      [7, 12, 17, 22] ++
      [5, 9, 14, 20] ++
      [4, 11, 16, 23] ++
      [6, 10, 15, 21]
    (∃ v : Nat → Vars4,
      v 0 = { a := h.getD 0 0, b := h.getD 1 0, c := h.getD 2 0, d := h.getD 3 0 } ∧
      (∀ t, t < 48 → v (t + 1) =
        { a := (v t).d,
          b := rotl ((v t).a +
              (if t < 16 then md4F (v t).b (v t).c (v t).d
               else if t < 32 then md4G (v t).b (v t).c (v t).d else md4H (v t).b (v t).c (v t).d) +
              x.getD (index4.getD t 0) 0 +
              (if t < 16 then 0x00000000#32 else if t < 32 then 0x5a827999#32 else 0x6ed9eba1#32))
            (shift4.getD (4 * (t / 16) + t % 4) 0),
          c := (v t).b,
          d := (v t).c }) ∧
      processMD4 h blk =
        [h.getD 0 0 + (v 48).a, h.getD 1 0 + (v 48).b, h.getD 2 0 + (v 48).c, h.getD 3 0 + (v 48).d]) ∧
    (∃ v : Nat → Vars4,
      v 0 = { a := h.getD 0 0, b := h.getD 1 0, c := h.getD 2 0, d := h.getD 3 0 } ∧
      (∀ i, i < 64 → v (i + 1) =
        { a := (v i).d,
          b := (v i).b + rotl ((v i).a +
              (if i < 16 then md5F (v i).b (v i).c (v i).d
               else if i < 32 then md5G (v i).b (v i).c (v i).d
               else if i < 48 then md5H (v i).b (v i).c (v i).d else md5I (v i).b (v i).c (v i).d) +
              t5.getD i 0 +
              x.getD (if i < 16 then i else if i < 32 then (5 * i + 1) % 16
                else if i < 48 then (3 * i + 5) % 16 else 7 * i % 16) 0)
            (shift5.getD (4 * (i / 16) + i % 4) 0),
          c := (v i).b,
          d := (v i).c }) ∧
      processMD5 h blk =
        [h.getD 0 0 + (v 64).a, h.getD 1 0 + (v 64).b, h.getD 2 0 + (v 64).c, h.getD 3 0 + (v 64).d])

/-- R202 to R204: SHA-1 compression of any Block from any ChainingState, as the sequence of its 80 steps on the schedule of
R200 and the feed-forward. -/
def Obligations.SHA1CompressionSteps : Prop :=
  ∀ (h : List Word32) (blk : List Byte),
    let wt := sha1Schedule (messageWords 32 4 .big blk)
    ∃ v : Nat → Vars5,
      v 0 = { a := h.getD 0 0, b := h.getD 1 0, c := h.getD 2 0, d := h.getD 3 0, e := h.getD 4 0 } ∧
      (∀ t, t < 80 → v (t + 1) =
        { a := rotl (v t).a 5 +
            (if t < 20 then sha1F1 (v t).b (v t).c (v t).d
             else if t < 40 then sha1F2 (v t).b (v t).c (v t).d
             else if t < 60 then sha1F3 (v t).b (v t).c (v t).d else sha1F2 (v t).b (v t).c (v t).d) +
            (v t).e +
            (if t < 20 then 0x5a827999#32 else if t < 40 then 0x6ed9eba1#32
             else if t < 60 then 0x8f1bbcdc#32 else 0xca62c1d6#32) +
            wt.getD t 0,
          b := (v t).a,
          c := rotl (v t).b 30,
          d := (v t).c,
          e := (v t).d }) ∧
      processSHA1 h blk =
        [h.getD 0 0 + (v 80).a, h.getD 1 0 + (v 80).b, h.getD 2 0 + (v 80).c, h.getD 3 0 + (v 80).d,
         h.getD 4 0 + (v 80).e]

/-- R225, R226, R245, R246: SHA-256 and SHA-512 compression of any Block from any ChainingState, as the sequence of their
64 and 80 steps on the schedules of R224 and R244 and the feed-forward. -/
def Obligations.SHA2CompressionSteps : Prop :=
  (∀ (h : List Word32) (blk : List Byte),
    let wt := sha2Schedule sha256Core (messageWords 32 4 .big blk)
    ∃ v : Nat → Vars8 32,
      v 0 = { a := h.getD 0 0, b := h.getD 1 0, c := h.getD 2 0, d := h.getD 3 0,
              e := h.getD 4 0, f := h.getD 5 0, g := h.getD 6 0, h := h.getD 7 0 } ∧
      (∀ t, t < 64 →
        let t1 := (v t).h + sha256Ep1 (v t).e + sha2Ch (v t).e (v t).f (v t).g + sha256K.getD t 0 + wt.getD t 0
        let t2 := sha256Ep0 (v t).a + sha2Maj (v t).a (v t).b (v t).c
        v (t + 1) = { a := t1 + t2, b := (v t).a, c := (v t).b, d := (v t).c,
                      e := (v t).d + t1, f := (v t).e, g := (v t).f, h := (v t).g }) ∧
      processSHA256 h blk =
        [h.getD 0 0 + (v 64).a, h.getD 1 0 + (v 64).b, h.getD 2 0 + (v 64).c, h.getD 3 0 + (v 64).d,
         h.getD 4 0 + (v 64).e, h.getD 5 0 + (v 64).f, h.getD 6 0 + (v 64).g, h.getD 7 0 + (v 64).h]) ∧
  (∀ (h : List Word64) (blk : List Byte),
    let wt := sha2Schedule sha512Core (messageWords 64 8 .big blk)
    ∃ v : Nat → Vars8 64,
      v 0 = { a := h.getD 0 0, b := h.getD 1 0, c := h.getD 2 0, d := h.getD 3 0,
              e := h.getD 4 0, f := h.getD 5 0, g := h.getD 6 0, h := h.getD 7 0 } ∧
      (∀ t, t < 80 →
        let t1 := (v t).h + sha512Ep1 (v t).e + sha2Ch (v t).e (v t).f (v t).g + sha512K.getD t 0 + wt.getD t 0
        let t2 := sha512Ep0 (v t).a + sha2Maj (v t).a (v t).b (v t).c
        v (t + 1) = { a := t1 + t2, b := (v t).a, c := (v t).b, d := (v t).c,
                      e := (v t).d + t1, f := (v t).e, g := (v t).f, h := (v t).g }) ∧
      processSHA512 h blk =
        [h.getD 0 0 + (v 80).a, h.getD 1 0 + (v 80).b, h.getD 2 0 + (v 80).c, h.getD 3 0 + (v 80).d,
         h.getD 4 0 + (v 80).e, h.getD 5 0 + (v 80).f, h.getD 6 0 + (v 80).g, h.getD 7 0 + (v 80).h])

/-- The compression traces of spec/95_test_vectors.md section 4, on the padded Block of "abc" from the initial vector: for each
family the working variables after step 0, step 1 and the last step, the schedule words the spec prints, and PROCESS. -/
def Obligations.CompressionTraces : Prop :=
  (md4VarsAfter 1 = ⟨0x10325476#32, 0x031b1304#32, 0xefcdab89#32, 0x98badcfe#32⟩ ∧
   md4VarsAfter 2 = ⟨0x98badcfe#32, 0xee123855#32, 0x031b1304#32, 0xefcdab89#32⟩ ∧
   md4VarsAfter 48 = ⟨0x12bc25a3#32, 0x630a7626#32, 0x4f4fe461#32, 0x8d405204#32⟩ ∧
   process .md4 Alg.md4.iv abcLittle = .w32 [0x7a0148a4#32, 0x52d821af#32, 0xe80ac15f#32, 0x9d72a67a#32]) ∧
  (md5VarsAfter 1 = ⟨0x10325476#32, 0xd6d117b4#32, 0xefcdab89#32, 0x98badcfe#32⟩ ∧
   md5VarsAfter 2 = ⟨0x98badcfe#32, 0x344a8432#32, 0xd6d117b4#32, 0xefcdab89#32⟩ ∧
   md5VarsAfter 64 = ⟨0x310ade8f#32, 0xc08226b3#32, 0xe484b9d8#32, 0x624d8cb2#32⟩ ∧
   process .md5 Alg.md5.iv abcLittle = .w32 [0x98500190#32, 0xb04fd23c#32, 0x7d3f96d6#32, 0x727fe128#32]) ∧
  (((sha1Schedule abcWords32).drop 16).take 4 = [0xc2c4c700#32, 0x00000000#32, 0x00000030#32, 0x85898e01#32] ∧
   (sha1Schedule abcWords32).drop 79 = [0x822e0879#32] ∧
   sha1VarsAfter 1 = ⟨0x0116fc33#32, 0x67452301#32, 0x7bf36ae2#32, 0x98badcfe#32, 0x10325476#32⟩ ∧
   sha1VarsAfter 2 = ⟨0x8990536d#32, 0x0116fc33#32, 0x59d148c0#32, 0x7bf36ae2#32, 0x98badcfe#32⟩ ∧
   sha1VarsAfter 80 = ⟨0x42541b35#32, 0x5738d5e1#32, 0x21834873#32, 0x681e6df6#32, 0xd8fdf6ad#32⟩ ∧
   process .sha1 Alg.sha1.iv (abcBig 64) =
     .w32 [0xa9993e36#32, 0x4706816a#32, 0xba3e2571#32, 0x7850c26c#32, 0x9cd0d89d#32]) ∧
  (sha256VarsAfter 1 = ⟨0x5d6aebcd#32, 0x6a09e667#32, 0xbb67ae85#32, 0x3c6ef372#32,
     0xfa2a4622#32, 0x510e527f#32, 0x9b05688c#32, 0x1f83d9ab#32⟩ ∧
   sha256VarsAfter 2 = ⟨0x5a6ad9ad#32, 0x5d6aebcd#32, 0x6a09e667#32, 0xbb67ae85#32,
     0x78ce7989#32, 0xfa2a4622#32, 0x510e527f#32, 0x9b05688c#32⟩ ∧
   sha256VarsAfter 64 = ⟨0x506e3058#32, 0xd39a2165#32, 0x04d24d6c#32, 0xb85e2ce9#32,
     0x5ef50f24#32, 0xfb121210#32, 0x948d25b6#32, 0x961f4894#32⟩ ∧
   process .sha256 Alg.sha256.iv (abcBig 64) =
     .w32 [0xba7816bf#32, 0x8f01cfea#32, 0x414140de#32, 0x5dae2223#32,
       0xb00361a3#32, 0x96177a9c#32, 0xb410ff61#32, 0xf20015ad#32]) ∧
  (sha512VarsAfter 1 = ⟨0xf6afceb8bcfcddf5#64, 0x6a09e667f3bcc908#64, 0xbb67ae8584caa73b#64, 0x3c6ef372fe94f82b#64,
     0x58cb02347ab51f91#64, 0x510e527fade682d1#64, 0x9b05688c2b3e6c1f#64, 0x1f83d9abfb41bd6b#64⟩ ∧
   sha512VarsAfter 2 = ⟨0x1320f8c9fb872cc0#64, 0xf6afceb8bcfcddf5#64, 0x6a09e667f3bcc908#64, 0xbb67ae8584caa73b#64,
     0xc3d4ebfd48650ffa#64, 0x58cb02347ab51f91#64, 0x510e527fade682d1#64, 0x9b05688c2b3e6c1f#64⟩ ∧
   sha512VarsAfter 80 = ⟨0x73a54f399fa4b1b2#64, 0x10d9c4c4295599f6#64, 0xd67806db8b148677#64, 0x654ef9abec389ca9#64,
     0xd08446aa79693ed7#64, 0x9bb4d39778c07f9e#64, 0x25c96a7768fb2aa3#64, 0xceb9fc3691ce8326#64⟩ ∧
   process .sha512 Alg.sha512.iv (abcBig 128) =
     .w64 [0xddaf35a193617aba#64, 0xcc417349ae204131#64, 0x12e6fa4e89a97ea2#64, 0x0a9eeee64b55d39a#64,
       0x2192992a274fc1a8#64, 0x36ba3c23a3feebbd#64, 0x454d4423643ce80e#64, 0x2a9ac94fa54ca49f#64])

/-- R142, R227, R247: PROCESS of each ALG, on every ChainingState and Block, is the compression of its family: SHA-224 and
SHA-384 have none of their own, and differ from their siblings in the initial vector. -/
def Obligations.SiblingsShareProcess : Prop :=
  (∀ (h : Chain) (blk : List Byte),
    process .md4 h blk = .w32 (processMD4 (chainWords32 h) blk) ∧
    process .md5 h blk = .w32 (processMD5 (chainWords32 h) blk) ∧
    process .sha1 h blk = .w32 (processSHA1 (chainWords32 h) blk) ∧
    process .sha224 h blk = .w32 (processSHA256 (chainWords32 h) blk) ∧
    process .sha256 h blk = .w32 (processSHA256 (chainWords32 h) blk) ∧
    process .sha384 h blk = .w64 (processSHA512 (chainWords64 h) blk) ∧
    process .sha512 h blk = .w64 (processSHA512 (chainWords64 h) blk)) ∧
  process .sha224 = process .sha256 ∧ process .sha384 = process .sha512 ∧
  Alg.sha224.iv ≠ Alg.sha256.iv ∧ Alg.sha384.iv ≠ Alg.sha512.iv

/-- R134 to R137, R223, R243: the constant tables from the primes, digit by digit. Word i of IV(SHA512) and of IV(SHA384) is
the first 64 bits of the fractional part of the square root of a prime, word t of K512 that of a cube root; IV(SHA256) and
K256 are the high halves, IV(SHA224) the low halves. -/
def Obligations.ConstantTablesFromPrimes : Prop :=
  primes.length = 80 ∧
  (∀ i, i < 8 → isRootFraction 2 (primes.getD i 0) ((chainWords64 Alg.sha512.iv).getD i 0).toNat = true) ∧
  (∀ i, i < 8 → isRootFraction 2 (primes.getD (8 + i) 0) ((chainWords64 Alg.sha384.iv).getD i 0).toNat = true) ∧
  (∀ t, t < 80 → isRootFraction 3 (primes.getD t 0) (sha512K.getD t 0).toNat = true) ∧
  (chainWords64 Alg.sha512.iv).length = 8 ∧ (chainWords64 Alg.sha384.iv).length = 8 ∧ sha512K.length = 80 ∧
  chainWords32 Alg.sha256.iv = (chainWords64 Alg.sha512.iv).map (BitVec.extractLsb' 32 32) ∧
  chainWords32 Alg.sha224.iv = (chainWords64 Alg.sha384.iv).map (BitVec.setWidth 32) ∧
  sha256K = (sha512K.take 64).map (BitVec.extractLsb' 32 32)

/-! ### INIT and RESET -/

/-- R101, R131 to R135, R331: INIT of each 32-bit algorithm answers, in every state, a new message with the initial vector
of the rule. R331's physical bits above W and above NH are not read and not stated. -/
def Obligations.InitStartsMessage32 : Prop :=
  ∀ s : State,
    (∃ t, exec .initMD4 s = .next t ∧
      FreshMessage .md4 (.w32 [0x67452301#32, 0xefcdab89#32, 0x98badcfe#32, 0x10325476#32]) s t) ∧
    (∃ t, exec .initMD5 s = .next t ∧
      FreshMessage .md5 (.w32 [0x67452301#32, 0xefcdab89#32, 0x98badcfe#32, 0x10325476#32]) s t) ∧
    (∃ t, exec .initSHA1 s = .next t ∧
      FreshMessage .sha1 (.w32 [0x67452301#32, 0xefcdab89#32, 0x98badcfe#32, 0x10325476#32, 0xc3d2e1f0#32]) s t) ∧
    (∃ t, exec .initSHA224 s = .next t ∧
      FreshMessage .sha224 (.w32 [0xc1059ed8#32, 0x367cd507#32, 0x3070dd17#32, 0xf70e5939#32,
        0xffc00b31#32, 0x68581511#32, 0x64f98fa7#32, 0xbefa4fa4#32]) s t) ∧
    (∃ t, exec .initSHA256 s = .next t ∧
      FreshMessage .sha256 (.w32 [0x6a09e667#32, 0xbb67ae85#32, 0x3c6ef372#32, 0xa54ff53a#32,
        0x510e527f#32, 0x9b05688c#32, 0x1f83d9ab#32, 0x5be0cd19#32]) s t)

/-- R101, R136, R137, R331: INIT of each 64-bit algorithm. -/
def Obligations.InitStartsMessage64 : Prop :=
  ∀ s : State,
    (∃ t, exec .initSHA384 s = .next t ∧
      FreshMessage .sha384 (.w64 [0xcbbb9d5dc1059ed8#64, 0x629a292a367cd507#64, 0x9159015a3070dd17#64,
        0x152fecd8f70e5939#64, 0x67332667ffc00b31#64, 0x8eb44a8768581511#64, 0xdb0c2e0d64f98fa7#64,
        0x47b5481dbefa4fa4#64]) s t) ∧
    (∃ t, exec .initSHA512 s = .next t ∧
      FreshMessage .sha512 (.w64 [0x6a09e667f3bcc908#64, 0xbb67ae8584caa73b#64, 0x3c6ef372fe94f82b#64,
        0xa54ff53a5f1d36f1#64, 0x510e527fade682d1#64, 0x9b05688c2b3e6c1f#64, 0x1f83d9abfb41bd6b#64,
        0x5be0cd19137e2179#64]) s t)

/-- R102, R332: RESET, in every LIFE state but UNCONFIGURED, gives the state that INIT of the current ALG gives, in every
value the spec gives a state; in UNCONFIGURED it faults F2. -/
def Obligations.ResetIsInitOfCurrentAlg : Prop :=
  ∀ s : State,
    (s.life ≠ .unconfigured →
      ∃ t u, exec .reset s = .next t ∧ exec (.initOf s.alg) s = .next u ∧
        FreshMessage s.alg s.alg.iv s t ∧ FreshMessage s.alg s.alg.iv s u) ∧
    (s.life = .unconfigured → exec .reset s = .fault .frNoAlg)

/-! ### UPDATE -/

/-- R103 to R106, R36: an accepted UPDATE. With `buf` the pending bytes and then the data: every whole Block of `buf` goes
through PROCESS, in order; what is left stands at the bottom of the Block with zeros above it; OFF is its length; MLEN
has grown by N; the response is RESULT = 1; nothing else changes. -/
def Obligations.AcceptedUpdateAbsorbs : Prop :=
  ∀ (s : State) (data : List Byte), s.Inv → s.life = .ready → s.mlen.toNat + data.length ≤ 2 ^ 61 →
    ∃ t, exec (.update data) s = .next t ∧
      t.life = .ready ∧ t.alg = s.alg ∧ t.cfg = s.cfg ∧ t.inbox = s.inbox ∧
      t.outbox = s.outbox ++ [.result true] ∧
      t.mlen.toNat = s.mlen.toNat + data.length ∧
      t.off = (s.off + data.length) % s.alg.blockBytes ∧
      t.chain = processBlocks s.alg s.chain (pending s ++ data) ∧
      (∀ a, a < s.alg.blockBytes → t.readByte a =
        ((pending s ++ data).drop (s.alg.blockBytes * ((s.off + data.length) / s.alg.blockBytes))).getD a 0)

/-- R104, R301, R307: an UPDATE that would take MLEN past 2^61, whatever OFF is: RESULT = 0, LIFE = FAILED, and H, BLK, OFF
and every other register unchanged (MLEN is unspecified and not stated). From there UPDATE and FINAL fault F5, and RESET
and INIT give a new message. -/
def Obligations.OverflowRefusesUpdate : Prop :=
  ∀ (s : State) (data : List Byte), s.life = .ready → 2 ^ 61 < s.mlen.toNat + data.length →
    ∃ t, exec (.update data) s = .next t ∧
      t.life = .failed ∧ t.outbox = s.outbox ++ [.result false] ∧
      t.chain = s.chain ∧ (∀ a, a < s.alg.blockBytes → t.readByte a = s.readByte a) ∧ t.off = s.off ∧
      t.alg = s.alg ∧ t.cfg = s.cfg ∧ t.inbox = s.inbox ∧
      (∀ more, exec (.update more) t = .fault .frUseAfterFail) ∧ exec .final t = .fault .frUseAfterFail ∧
      (∃ u, exec .reset t = .next u ∧ FreshMessage s.alg s.alg.iv t u) ∧
      (∀ alg, ∃ u, exec (.initOf alg) t = .next u ∧ FreshMessage alg alg.iv t u)

/-- R107's length cases in READY: an empty UPDATE answers RESULT = 1 and changes nothing, also at MLEN = 2^61; the sum
2^61 is accepted and 2^61 + 1 is refused; N > 2^61 is always refused. -/
def Obligations.UpdateLengthCases : Prop :=
  ∀ s : State, s.life = .ready →
    (s.mlen.toNat ≤ 2 ^ 61 →
      ∃ t, exec (.update []) s = .next t ∧ SameRegisters s t ∧ t.outbox = s.outbox ++ [.result true]) ∧
    (∀ data, s.off < s.alg.blockBytes → s.mlen.toNat + data.length = 2 ^ 61 →
      ∃ t, exec (.update data) s = .next t ∧ t.life = .ready ∧ t.outbox = s.outbox ++ [.result true] ∧
        t.mlen.toNat = 2 ^ 61) ∧
    (∀ data, s.mlen.toNat + data.length = 2 ^ 61 + 1 →
      ∃ t, exec (.update data) s = .next t ∧ t.life = .failed ∧ t.outbox = s.outbox ++ [.result false]) ∧
    (∀ data, 2 ^ 61 < data.length →
      ∃ t, exec (.update data) s = .next t ∧ t.life = .failed ∧ t.outbox = s.outbox ++ [.result false])

/-! ### FINAL -/

/-- R109 to R115, R36, R37: FINAL in READY. One compression of pending bytes, marker, zeros and length field where they fit
in a Block; else one of pending bytes, marker and zeros, and one of zeros and length field. Then OFF = 0, the Block all
zero, LIFE = FINALIZED, MLEN and ALG unchanged, and the response is the Digest of the new ChainingState, D bytes. -/
def Obligations.FinalPadsAndAnswers : Prop :=
  ∀ s : State, s.Inv → s.life = .ready →
    ∃ t, exec .final s = .next t ∧
      t.life = .finalized ∧ t.off = 0 ∧ t.mlen = s.mlen ∧ t.alg = s.alg ∧ t.cfg = s.cfg ∧ t.inbox = s.inbox ∧
      (∀ a, a < s.alg.blockBytes → t.readByte a = 0) ∧
      t.outbox = s.outbox ++ [.digest t.getDigest] ∧ t.getDigest.length = s.alg.digestBytes ∧
      (s.off + 1 + s.alg.lengthBytes s.cfg ≤ s.alg.blockBytes →
        t.chain = process s.alg s.chain
          (pending s ++ [0x80] ++ zeros (s.alg.blockBytes - (s.off + 1 + s.alg.lengthBytes s.cfg)) ++ lengthField s)) ∧
      (s.alg.blockBytes < s.off + 1 + s.alg.lengthBytes s.cfg →
        t.chain = process s.alg
          (process s.alg s.chain (pending s ++ [0x80] ++ zeros (s.alg.blockBytes - (s.off + 1))))
          (zeros (s.alg.blockBytes - s.alg.lengthBytes s.cfg) ++ lengthField s))

/-- R112 and its table: when there is room for the length field. -/
def Obligations.RoomTestTable : Prop :=
  ∀ s : State,
    (s.hasRoom = true ↔ s.off + 1 + s.alg.lengthBytes s.cfg ≤ s.alg.blockBytes) ∧
    (s.alg.wordBits = 32 → (s.hasRoom = true ↔ s.off ≤ 55)) ∧
    (s.alg.wordBits = 64 → s.cfg.lenField64 = .ref8 → (s.hasRoom = true ↔ s.off ≤ 119)) ∧
    (s.alg.wordBits = 64 → s.cfg.lenField64 = .fips16 → (s.hasRoom = true ↔ s.off ≤ 111))

/-- R138, R56: SET_MSG_SIZE writes byte k of the bit length mod 2^(8F) at `B - F + k` in little-endian order and at
`B - 1 - k` in big-endian order, and no other byte of the Block; it writes no register. The premise is the form of the Block alone, so the states FINAL
gives it, padded or cleared, are among these. -/
def Obligations.LengthFieldBytes : Prop :=
  ∀ (s : State) (bits : Nat), s.BlockWf →
    let f := s.alg.lengthBytes s.cfg
    let b := s.alg.blockBytes
    (∀ k, k < f →
      (s.alg.byteOrder = .little →
        (s.setMsgSize bits).readByte (b - f + k) = BitVec.ofNat 8 (bits % 2 ^ (8 * f) / 256 ^ k)) ∧
      (s.alg.byteOrder = .big →
        (s.setMsgSize bits).readByte (b - 1 - k) = BitVec.ofNat 8 (bits % 2 ^ (8 * f) / 256 ^ k))) ∧
    (∀ a, a < b - f → (s.setMsgSize bits).readByte a = s.readByte a) ∧
    (s.setMsgSize bits).chain = s.chain ∧ (s.setMsgSize bits).off = s.off ∧ (s.setMsgSize bits).mlen = s.mlen ∧
    (s.setMsgSize bits).alg = s.alg ∧ (s.setMsgSize bits).life = s.life ∧ (s.setMsgSize bits).cfg = s.cfg ∧
    (s.setMsgSize bits).inbox = s.inbox ∧ (s.setMsgSize bits).outbox = s.outbox

/-- R139: the length field in message words, with `v` the stored value, under the same premise. -/
def Obligations.LengthFieldWords : Prop :=
  ∀ (s : State) (bits : Nat), s.BlockWf →
    let v := bits % 2 ^ (8 * s.alg.lengthBytes s.cfg)
    let blk := (s.setMsgSize bits).memRead 0 s.alg.blockBytes
    (s.alg = .md4 ∨ s.alg = .md5 →
      ((messageWords 32 4 .little blk).getD 14 0).toNat = v % 2 ^ 32 ∧
      ((messageWords 32 4 .little blk).getD 15 0).toNat = v / 2 ^ 32) ∧
    (s.alg = .sha1 ∨ s.alg = .sha224 ∨ s.alg = .sha256 →
      ((messageWords 32 4 .big blk).getD 14 0).toNat = v / 2 ^ 32 ∧
      ((messageWords 32 4 .big blk).getD 15 0).toNat = v % 2 ^ 32) ∧
    (s.alg = .sha384 ∨ s.alg = .sha512 → s.cfg.lenField64 = .ref8 →
      ((messageWords 64 8 .big blk).getD 15 0).toNat = v ∧
      (messageWords 64 8 .big blk).getD 14 0 =
        (messageWords 64 8 .big (s.memRead 0 s.alg.blockBytes)).getD 14 0) ∧
    (s.alg = .sha384 ∨ s.alg = .sha512 → s.cfg.lenField64 = .fips16 →
      ((messageWords 64 8 .big blk).getD 14 0).toNat = v / 2 ^ 64 ∧
      ((messageWords 64 8 .big blk).getD 15 0).toNat = v % 2 ^ 64)

/-- R140, R141, R57: GET_DIGEST, byte by byte: D bytes, words in index order, each in order ORD; SHA-224 and SHA-384 end
early. -/
def Obligations.DigestBytes : Prop :=
  ∀ s : State,
    s.getDigest.length = s.alg.digestBytes ∧
    (∀ j, j < s.alg.digestBytes →
      (s.alg.byteOrder = .little →
        s.getDigest.getD j 0 = BitVec.ofNat 8 (((chainWords32 s.chain).getD (j / 4) 0).toNat / 256 ^ (j % 4))) ∧
      (s.alg.byteOrder = .big → s.alg.wordBits = 32 →
        s.getDigest.getD j 0 = BitVec.ofNat 8 (((chainWords32 s.chain).getD (j / 4) 0).toNat / 256 ^ (3 - j % 4))) ∧
      (s.alg.wordBits = 64 →
        s.getDigest.getD j 0 = BitVec.ofNat 8 (((chainWords64 s.chain).getD (j / 8) 0).toNat / 256 ^ (7 - j % 8))))

/-! ### Rules about every command -/

/-- R118, R306, R307, R308: the lifecycle table, cell by cell. UPDATE and FINAL in READY are stated where OFF lies in the
Block, which R28 says it does. -/
def Obligations.LifecycleTable : Prop :=
  ∀ s : State,
    (∀ alg, ∃ t, exec (.initOf alg) s = .next t ∧ t.life = .ready) ∧
    (s.life = .unconfigured →
      exec .reset s = .fault .frNoAlg ∧ (∀ data, exec (.update data) s = .fault .frNoAlg) ∧
      exec .final s = .fault .frNoAlg) ∧
    (s.life = .ready → s.off < s.alg.blockBytes →
      (∃ t, exec .reset s = .next t ∧ t.life = .ready) ∧
      (∀ data, ∃ t, exec (.update data) s = .next t ∧
        (t.life = .ready ∧ t.outbox = s.outbox ++ [.result true] ∨
         t.life = .failed ∧ t.outbox = s.outbox ++ [.result false])) ∧
      (∃ t, exec .final s = .next t ∧ t.life = .finalized)) ∧
    (s.life = .finalized →
      (∃ t, exec .reset s = .next t ∧ t.life = .ready) ∧
      (∀ data, exec (.update data) s = .fault .frUpdateAfterFinal) ∧
      exec .final s = .fault .frFinalAfterFinal) ∧
    (s.life = .failed →
      (∃ t, exec .reset s = .next t ∧ t.life = .ready) ∧
      (∀ data, exec (.update data) s = .fault .frUseAfterFail) ∧
      exec .final s = .fault .frUseAfterFail)

/-- R118, R303, R334: under the invariant a command answers a next state exactly in the LIFE states where the lifecycle table
gives it one, and otherwise the fault of the table; no command of the engine ends a run in any other way. -/
def Obligations.CommandsRunExactlyWhereDefined : Prop :=
  ∀ (i : Instr) (s : State), s.Inv →
    ((∃ t, exec i s = .next t) ↔ s.life.allows i = true) ∧
    (s.life.allows i = false → ∃ f, exec i s = .fault f ∧
      (f = .frNoAlg ∧ s.life = .unconfigured ∨ f = .frUpdateAfterFinal ∧ s.life = .finalized ∨
       f = .frFinalAfterFinal ∧ s.life = .finalized ∨ f = .frUseAfterFail ∧ s.life = .failed))

/-- R300: the one error. LIFE becomes FAILED, and a command answers false, exactly for an UPDATE in READY that would take
MLEN past 2^61. -/
def Obligations.OnlyOverflowFails : Prop :=
  ∀ (i : Instr) (s t : State), exec i s = .next t →
    let overflow := ∃ data, i = .update data ∧ s.life = .ready ∧ 2 ^ 61 < s.mlen.toNat + data.length
    (t.life = .failed ↔ overflow) ∧ (t.outbox = s.outbox ++ [.result false] ↔ overflow)

/-- R333, R25, R26, R28, R122: what only certain commands write. UNCONFIGURED is left by INIT alone; ALG is written by INIT
alone; MLEN is 0 after INIT and RESET, grows by N on an accepted UPDATE, and is kept by FINAL; no command writes the
parameter LEN_FIELD_64 or the queue of commands. -/
def Obligations.RegistersWrittenOnlyAsSpecified : Prop :=
  ∀ (i : Instr) (s t : State), exec i s = .next t →
    (s.life = .unconfigured → ∃ alg, i = .initOf alg) ∧
    (∀ alg, i = .initOf alg → t.alg = alg ∧ t.mlen = 0) ∧
    ((∀ alg, i ≠ .initOf alg) → t.alg = s.alg) ∧
    (i = .reset → t.mlen = 0) ∧
    (∀ data, i = .update data → t.life = .ready → t.mlen.toNat = s.mlen.toNat + data.length) ∧
    (i = .final → t.mlen = s.mlen) ∧
    t.cfg = s.cfg ∧ t.inbox = s.inbox

/-- R86: the response of each command: none for INIT and RESET, one RESULT for UPDATE, one Digest of exactly D bytes for
FINAL. -/
def Obligations.OneResponsePerCommand : Prop :=
  ∀ (i : Instr) (s t : State), exec i s = .next t →
    (∀ alg, i = .initOf alg → t.outbox = s.outbox) ∧
    (i = .reset → t.outbox = s.outbox) ∧
    (∀ data, i = .update data →
      t.outbox = s.outbox ++ [.result (decide (s.mlen.toNat + data.length ≤ 2 ^ 61))]) ∧
    (i = .final → ∃ d, d.length = s.alg.digestBytes ∧ t.outbox = s.outbox ++ [.digest d])

/-- The state after power-on meets the invariant, for both values of LEN_FIELD_64, and is UNCONFIGURED with nothing issued
and nothing answered (R330). The canonical form of the Block's two halves is the model's own (log entry 12). -/
def Obligations.PowerOnMeetsInvariant : Prop :=
  (∀ cfg : Config, State.Inv { State.reset with cfg := cfg }) ∧
  State.reset.life = .unconfigured ∧ State.reset.inbox = [] ∧ State.reset.outbox = []

/-- R26, R28, R30, R32, R36, R37: every step keeps the invariant, from every state that has it. That the Block's two halves are
canonical is the model's own part of it (DESIGN CHOICE, log entry 12). -/
def Obligations.StepKeepsInvariant : Prop :=
  ∀ s t : State, s.Inv → step s = .next t → t.Inv

/-- R26, R28, R32, R36, R37: the invariant holds in every state a run reaches, whatever transactions the host issues and when.
That the Block's two halves are canonical is the model's own part of it (DESIGN CHOICE, log entry 12). -/
def Obligations.ReachableStatesKeepInvariant : Prop :=
  ∀ s : State, Reachable s → s.Inv

/-- No run raises the model's own fault: OFF lies in the Block whenever a command uses it (R28, log entry 11). The faults a
run can end in are those of R302. -/
def Obligations.NoRunLeavesTheBlock : Prop :=
  ∀ s : State, Reachable s → step s ≠ .fault .blockIndexOutOfRange

/-- R119: streaming equivalence. However a message is split into UPDATEs, the Digest is that of one UPDATE of the whole
message. Every UPDATE is accepted where the whole message is at most 2^61 bytes (R8). -/
def Obligations.StreamingEquivalence : Prop :=
  ∀ (s : State) (alg : Alg) (chunks : List (List Byte)), chunks.flatten.length ≤ 2 ^ 61 →
    ∃ t u d,
      execAll ([.initOf alg] ++ chunks.map .update ++ [.final]) s = .next t ∧
      t.outbox = s.outbox ++ List.replicate chunks.length (.result true) ++ [.digest d] ∧
      execAll [.initOf alg, .update chunks.flatten, .final] s = .next u ∧
      u.outbox = s.outbox ++ [.result true, .digest d]

/-- The engine computes the reference function of a whole message (Machine/Reference.lean: pad, compress block by block,
serialize), for every algorithm, every split of every message of at most 2^61 bytes, from every state. It is the sum of
R101 to R116, R119, R130 to R142. -/
def Obligations.EngineComputesReferenceDigest : Prop :=
  ∀ (s : State) (alg : Alg) (chunks : List (List Byte)), chunks.flatten.length ≤ 2 ^ 61 →
    ∃ t, execAll ([.initOf alg] ++ chunks.map .update ++ [.final]) s = .next t ∧
      t.life = .finalized ∧ t.alg = alg ∧ t.mlen.toNat = chunks.flatten.length ∧
      t.outbox = s.outbox ++ List.replicate chunks.length (.result true) ++
        [.digest (digestOf alg s.cfg chunks.flatten)]

/-- The length of a padded message is the least whole number of Blocks that holds message, marker and length field, so the
work is `floor(L / B) + 1` or `+ 2` compressions (R112, R117, glossary of R16: Padding). -/
def Obligations.PaddingFillsBlocks : Prop :=
  ∀ (alg : Alg) (cfg : Config) (msg : List Byte),
    let b := alg.blockBytes
    let f := alg.lengthBytes cfg
    (paddedMessage alg cfg msg).length =
      b * (msg.length / b + if msg.length % b + 1 + f ≤ b then 1 else 2) ∧
    msg.length + 1 + f ≤ (paddedMessage alg cfg msg).length ∧
    (paddedMessage alg cfg msg).length < msg.length + 1 + f + b ∧
    (paddedMessage alg cfg msg).take (msg.length + 1) = msg ++ [0x80]

/-- R24, R31, R36, R330: the values the spec leaves unspecified have no effect. Two states that differ only in values no
command reads before writing them (`SameToHost`) answer every step alike: the same fault or refusal, or the same responses
and again two such states. -/
def Obligations.UnspecifiedValuesHaveNoEffect : Prop :=
  ∀ s t : State, s.Inv → t.Inv → SameToHost s t → SameOutcomeToHost (step s) (step t)

/-- R68, R319, R62: instances are independent. After any interleaving of transactions to a list of instances, instance `k`
is where its own transactions alone, in their order, take it. -/
def Obligations.InstancesAreIndependent : Prop :=
  ∀ (fl : Fleet) (trace : List (Nat × Transaction)) (k : Nat),
    (fl.run trace)[k]? = fl[k]?.map (deliverAll (transactionsTo k trace))
end

