-- ==== Sys2Proof/Laws/Memory.lean ====
section
/-! SUPPORT. The laws of addressable bytes: read after write, and the canonical form is kept. -/

namespace Sys2Proof.Machine

theorem Memory.nil_wf : Memory.wf [] := ⟨List.Pairwise.nil, by simp⟩

/-- No pair of the list holds address `a`: it reads as 0x00. -/
theorem Memory.read_eq_zero {m : Memory} {a : Nat} (h : ∀ c ∈ m, c.1 ≠ a) : Memory.read m a = 0 := by
  induction m with
  | nil => rfl
  | cons c m ih =>
    obtain ⟨b, v⟩ := c
    have hb : b ≠ a := h (b, v) List.mem_cons_self
    rw [Memory.read, if_neg (Ne.symm hb)]
    exact ih fun c hc => h c (List.mem_cons_of_mem _ hc)

/-- What a write leaves in the list: the pair it writes, if it is not zero, and pairs that were there. -/
theorem Memory.mem_write {m : Memory} {a : Nat} {v : Byte} {c : Host.Cell} (h : c ∈ Memory.write m a v) :
    c ∈ m ∨ (c = (a, v) ∧ v ≠ 0) := by
  induction m with
  | nil =>
    unfold Memory.write at h
    split at h <;> simp_all
  | cons p m ih =>
    obtain ⟨b, x⟩ := p
    unfold Memory.write at h
    split at h
    · split at h <;> grind
    · split at h
      · split at h <;> grind
      · rcases List.mem_cons.mp h with rfl | h
        · exact .inl List.mem_cons_self
        · exact (ih h).imp_left (List.mem_cons_of_mem _)

/-- Every memory operation that changes memory is `write`, and it keeps the canonical form. -/
theorem Memory.write_wf {m : Memory} (h : Memory.wf m) (a : Nat) (v : Byte) : Memory.wf (Memory.write m a v) := by
  induction m with
  | nil => unfold Memory.write; split <;> simp_all [Memory.wf]
  | cons p m ih =>
    obtain ⟨b, x⟩ := p
    obtain ⟨hs, hz⟩ := h
    obtain ⟨hb, hs⟩ := List.pairwise_cons.mp hs
    have hm : Memory.wf m := ⟨hs, fun c hc => hz c (List.mem_cons_of_mem _ hc)⟩
    have hx : x ≠ 0 := hz (b, x) List.mem_cons_self
    unfold Memory.write
    split
    · rename_i hab
      split
      · exact ⟨List.pairwise_cons.mpr ⟨hb, hs⟩, hz⟩
      · rename_i hv
        refine ⟨List.pairwise_cons.mpr ⟨?_, List.pairwise_cons.mpr ⟨hb, hs⟩⟩, ?_⟩
        · intro c hc
          rcases List.mem_cons.mp hc with rfl | hc
          · exact hab
          · exact Nat.lt_trans hab (hb c hc)
        · intro c hc
          rcases List.mem_cons.mp hc with rfl | hc
          · exact hv
          · exact hz c hc
    · split
      · rename_i hab
        split
        · exact hm
        · rename_i hv
          refine ⟨List.pairwise_cons.mpr ⟨fun c hc => hab ▸ hb c hc, hs⟩, ?_⟩
          intro c hc
          rcases List.mem_cons.mp hc with rfl | hc
          · exact hv
          · exact hm.2 c hc
      · rename_i hlt hne
        obtain ⟨hs', hz'⟩ := ih hm
        refine ⟨List.pairwise_cons.mpr ⟨?_, hs'⟩, ?_⟩
        · intro c hc
          rcases Memory.mem_write hc with hc | ⟨rfl, -⟩
          · exact hb c hc
          · simp only; omega
        · intro c hc
          rcases List.mem_cons.mp hc with rfl | hc
          · exact hx
          · exact hz' c hc

/-- Read after write at the same address. -/
theorem Memory.read_write_same {m : Memory} (h : Memory.wf m) (a : Nat) (v : Byte) :
    Memory.read (Memory.write m a v) a = v := by
  induction m with
  | nil => unfold Memory.write; split <;> simp_all [Memory.read]
  | cons p m ih =>
    obtain ⟨b, x⟩ := p
    obtain ⟨hs, hz⟩ := h
    obtain ⟨hb, hs⟩ := List.pairwise_cons.mp hs
    have hm : Memory.wf m := ⟨hs, fun c hc => hz c (List.mem_cons_of_mem _ hc)⟩
    unfold Memory.write
    split
    · rename_i hab
      split
      · rename_i hv
        rw [hv]
        apply Memory.read_eq_zero
        intro c hc
        rcases List.mem_cons.mp hc with rfl | hc
        · simp only; omega
        · have := hb c hc; simp only at this; omega
      · simp [Memory.read]
    · split
      · rename_i hab
        split
        · rename_i hv
          rw [hv]
          apply Memory.read_eq_zero
          intro c hc
          have := hb c hc
          simp only at this; omega
        · simp [Memory.read]
      · rename_i hne
        rw [Memory.read, if_neg hne]
        exact ih hm

/-- A write leaves every other address alone. -/
theorem Memory.read_write_other (m : Memory) {a b : Nat} (v : Byte) (hab : b ≠ a) :
    Memory.read (Memory.write m a v) b = Memory.read m b := by
  induction m with
  | nil => unfold Memory.write; split <;> simp [Memory.read, hab]
  | cons p m ih =>
    obtain ⟨c, x⟩ := p
    unfold Memory.write
    split
    · split <;> simp [Memory.read, hab]
    · split
      · rename_i hac
        subst hac
        split <;> simp [Memory.read, hab]
      · simp [Memory.read, ih]

theorem Memory.read_write {m : Memory} (h : Memory.wf m) (a b : Nat) (v : Byte) :
    Memory.read (Memory.write m a v) b = if b = a then v else Memory.read m b := by
  split
  · subst b; exact Memory.read_write_same h a v
  · rename_i hab; exact Memory.read_write_other m v hab

/-- The unread upper bytes are a canonical list of addresses 64 to 127. -/
theorem unreadBlock_spec (draw : Nat) :
    Memory.wf (unreadBlock draw) ∧ ∀ c ∈ unreadBlock draw, 64 ≤ c.1 ∧ c.1 < 128 := by
  suffices h : ∀ (as : List Nat) (m : Memory), (∀ a ∈ as, 64 ≤ a ∧ a < 128) →
      (Memory.wf m ∧ ∀ c ∈ m, 64 ≤ c.1 ∧ c.1 < 128) →
      Memory.wf (as.foldl (fun m a => Memory.write m a (Config.freeByte draw a)) m) ∧
      ∀ c ∈ as.foldl (fun m a => Memory.write m a (Config.freeByte draw a)) m, 64 ≤ c.1 ∧ c.1 < 128 by
    unfold unreadBlock
    refine h _ [] ?_ ⟨Memory.nil_wf, by simp⟩
    intro a ha
    have := List.mem_range'_1.mp ha
    omega
  intro as
  induction as with
  | nil => intro m _ h; exact h
  | cons a as ih =>
    intro m has h
    rw [List.foldl_cons]
    refine ih _ (fun b hb => has b (List.mem_cons_of_mem _ hb)) ⟨Memory.write_wf h.1 _ _, fun c hc => ?_⟩
    rcases Memory.mem_write hc with hc | ⟨rfl, -⟩
    · exact h.2 c hc
    · exact has a List.mem_cons_self

end Sys2Proof.Machine
end

