-- ==== Sys2Proof/Laws/State.lean ====
section
/-! SUPPORT. What each named update of the state does to each field. -/

namespace Sys2Proof.Machine


/-! ### setAlg -/

@[simp] theorem State.setAlg_alg (s : State) (x : Alg) : (s.setAlg x).alg = x := rfl
@[simp] theorem State.setAlg_life (s : State) (x : Alg) : (s.setAlg x).life = s.life := rfl
@[simp] theorem State.setAlg_h (s : State) (x : Alg) : (s.setAlg x).h = s.h := rfl
@[simp] theorem State.setAlg_blkLo (s : State) (x : Alg) : (s.setAlg x).blkLo = s.blkLo := rfl
@[simp] theorem State.setAlg_blkHi (s : State) (x : Alg) : (s.setAlg x).blkHi = s.blkHi := rfl
@[simp] theorem State.setAlg_off (s : State) (x : Alg) : (s.setAlg x).off = s.off := rfl
@[simp] theorem State.setAlg_mlen (s : State) (x : Alg) : (s.setAlg x).mlen = s.mlen := rfl
@[simp] theorem State.setAlg_cfg (s : State) (x : Alg) : (s.setAlg x).cfg = s.cfg := rfl
@[simp] theorem State.setAlg_inbox (s : State) (x : Alg) : (s.setAlg x).inbox = s.inbox := rfl
@[simp] theorem State.setAlg_outbox (s : State) (x : Alg) : (s.setAlg x).outbox = s.outbox := rfl
@[simp] theorem State.setAlg_freeCtr (s : State) (x : Alg) : (s.setAlg x).freeCtr = s.freeCtr := rfl

/-! ### setLife -/

@[simp] theorem State.setLife_alg (s : State) (x : Life) : (s.setLife x).alg = s.alg := rfl
@[simp] theorem State.setLife_life (s : State) (x : Life) : (s.setLife x).life = x := rfl
@[simp] theorem State.setLife_h (s : State) (x : Life) : (s.setLife x).h = s.h := rfl
@[simp] theorem State.setLife_blkLo (s : State) (x : Life) : (s.setLife x).blkLo = s.blkLo := rfl
@[simp] theorem State.setLife_blkHi (s : State) (x : Life) : (s.setLife x).blkHi = s.blkHi := rfl
@[simp] theorem State.setLife_off (s : State) (x : Life) : (s.setLife x).off = s.off := rfl
@[simp] theorem State.setLife_mlen (s : State) (x : Life) : (s.setLife x).mlen = s.mlen := rfl
@[simp] theorem State.setLife_cfg (s : State) (x : Life) : (s.setLife x).cfg = s.cfg := rfl
@[simp] theorem State.setLife_inbox (s : State) (x : Life) : (s.setLife x).inbox = s.inbox := rfl
@[simp] theorem State.setLife_outbox (s : State) (x : Life) : (s.setLife x).outbox = s.outbox := rfl
@[simp] theorem State.setLife_freeCtr (s : State) (x : Life) : (s.setLife x).freeCtr = s.freeCtr := rfl

/-! ### setOff -/

@[simp] theorem State.setOff_alg (s : State) (n : Nat) : (s.setOff n).alg = s.alg := rfl
@[simp] theorem State.setOff_life (s : State) (n : Nat) : (s.setOff n).life = s.life := rfl
@[simp] theorem State.setOff_h (s : State) (n : Nat) : (s.setOff n).h = s.h := rfl
@[simp] theorem State.setOff_blkLo (s : State) (n : Nat) : (s.setOff n).blkLo = s.blkLo := rfl
@[simp] theorem State.setOff_blkHi (s : State) (n : Nat) : (s.setOff n).blkHi = s.blkHi := rfl
@[simp] theorem State.setOff_off (s : State) (n : Nat) : (s.setOff n).off = n := rfl
@[simp] theorem State.setOff_mlen (s : State) (n : Nat) : (s.setOff n).mlen = s.mlen := rfl
@[simp] theorem State.setOff_cfg (s : State) (n : Nat) : (s.setOff n).cfg = s.cfg := rfl
@[simp] theorem State.setOff_inbox (s : State) (n : Nat) : (s.setOff n).inbox = s.inbox := rfl
@[simp] theorem State.setOff_outbox (s : State) (n : Nat) : (s.setOff n).outbox = s.outbox := rfl
@[simp] theorem State.setOff_freeCtr (s : State) (n : Nat) : (s.setOff n).freeCtr = s.freeCtr := rfl

/-! ### setMlen -/

@[simp] theorem State.setMlen_alg (s : State) (n : Nat) : (s.setMlen n).alg = s.alg := rfl
@[simp] theorem State.setMlen_life (s : State) (n : Nat) : (s.setMlen n).life = s.life := rfl
@[simp] theorem State.setMlen_h (s : State) (n : Nat) : (s.setMlen n).h = s.h := rfl
@[simp] theorem State.setMlen_blkLo (s : State) (n : Nat) : (s.setMlen n).blkLo = s.blkLo := rfl
@[simp] theorem State.setMlen_blkHi (s : State) (n : Nat) : (s.setMlen n).blkHi = s.blkHi := rfl
@[simp] theorem State.setMlen_off (s : State) (n : Nat) : (s.setMlen n).off = s.off := rfl
@[simp] theorem State.setMlen_mlen (s : State) (n : Nat) : (s.setMlen n).mlen = BitVec.ofNat 64 n := rfl
@[simp] theorem State.setMlen_cfg (s : State) (n : Nat) : (s.setMlen n).cfg = s.cfg := rfl
@[simp] theorem State.setMlen_inbox (s : State) (n : Nat) : (s.setMlen n).inbox = s.inbox := rfl
@[simp] theorem State.setMlen_outbox (s : State) (n : Nat) : (s.setMlen n).outbox = s.outbox := rfl
@[simp] theorem State.setMlen_freeCtr (s : State) (n : Nat) : (s.setMlen n).freeCtr = s.freeCtr := rfl

/-! ### respond -/

@[simp] theorem State.respond_alg (s : State) (r : Response) : (s.respond r).alg = s.alg := rfl
@[simp] theorem State.respond_life (s : State) (r : Response) : (s.respond r).life = s.life := rfl
@[simp] theorem State.respond_h (s : State) (r : Response) : (s.respond r).h = s.h := rfl
@[simp] theorem State.respond_blkLo (s : State) (r : Response) : (s.respond r).blkLo = s.blkLo := rfl
@[simp] theorem State.respond_blkHi (s : State) (r : Response) : (s.respond r).blkHi = s.blkHi := rfl
@[simp] theorem State.respond_off (s : State) (r : Response) : (s.respond r).off = s.off := rfl
@[simp] theorem State.respond_mlen (s : State) (r : Response) : (s.respond r).mlen = s.mlen := rfl
@[simp] theorem State.respond_cfg (s : State) (r : Response) : (s.respond r).cfg = s.cfg := rfl
@[simp] theorem State.respond_inbox (s : State) (r : Response) : (s.respond r).inbox = s.inbox := rfl
@[simp] theorem State.respond_outbox (s : State) (r : Response) : (s.respond r).outbox = s.outbox ++ [r] := rfl
@[simp] theorem State.respond_freeCtr (s : State) (r : Response) : (s.respond r).freeCtr = s.freeCtr := rfl

/-! ### raiseLengthOverflow -/

@[simp] theorem State.raiseLengthOverflow_alg (s : State) : (s.raiseLengthOverflow).alg = s.alg := rfl
@[simp] theorem State.raiseLengthOverflow_life (s : State) : (s.raiseLengthOverflow).life = .failed := rfl
@[simp] theorem State.raiseLengthOverflow_h (s : State) : (s.raiseLengthOverflow).h = s.h := rfl
@[simp] theorem State.raiseLengthOverflow_blkLo (s : State) : (s.raiseLengthOverflow).blkLo = s.blkLo := rfl
@[simp] theorem State.raiseLengthOverflow_blkHi (s : State) : (s.raiseLengthOverflow).blkHi = s.blkHi := rfl
@[simp] theorem State.raiseLengthOverflow_off (s : State) : (s.raiseLengthOverflow).off = s.off := rfl
@[simp] theorem State.raiseLengthOverflow_mlen (s : State) : (s.raiseLengthOverflow).mlen = Config.freeMlen s.freeCtr := rfl
@[simp] theorem State.raiseLengthOverflow_cfg (s : State) : (s.raiseLengthOverflow).cfg = s.cfg := rfl
@[simp] theorem State.raiseLengthOverflow_inbox (s : State) : (s.raiseLengthOverflow).inbox = s.inbox := rfl
@[simp] theorem State.raiseLengthOverflow_outbox (s : State) : (s.raiseLengthOverflow).outbox = s.outbox ++ [.result false] := rfl
@[simp] theorem State.raiseLengthOverflow_freeCtr (s : State) : (s.raiseLengthOverflow).freeCtr = s.freeCtr + 1 := rfl

/-! ### writeByte -/

@[simp] theorem State.writeByte_alg (s : State) (a : Nat) (v : Byte) : (s.writeByte a v).alg = s.alg := by
  unfold State.writeByte; split <;> rfl
@[simp] theorem State.writeByte_life (s : State) (a : Nat) (v : Byte) : (s.writeByte a v).life = s.life := by
  unfold State.writeByte; split <;> rfl
@[simp] theorem State.writeByte_h (s : State) (a : Nat) (v : Byte) : (s.writeByte a v).h = s.h := by
  unfold State.writeByte; split <;> rfl
@[simp] theorem State.writeByte_off (s : State) (a : Nat) (v : Byte) : (s.writeByte a v).off = s.off := by
  unfold State.writeByte; split <;> rfl
@[simp] theorem State.writeByte_mlen (s : State) (a : Nat) (v : Byte) : (s.writeByte a v).mlen = s.mlen := by
  unfold State.writeByte; split <;> rfl
@[simp] theorem State.writeByte_cfg (s : State) (a : Nat) (v : Byte) : (s.writeByte a v).cfg = s.cfg := by
  unfold State.writeByte; split <;> rfl
@[simp] theorem State.writeByte_inbox (s : State) (a : Nat) (v : Byte) : (s.writeByte a v).inbox = s.inbox := by
  unfold State.writeByte; split <;> rfl
@[simp] theorem State.writeByte_outbox (s : State) (a : Nat) (v : Byte) : (s.writeByte a v).outbox = s.outbox := by
  unfold State.writeByte; split <;> rfl
@[simp] theorem State.writeByte_freeCtr (s : State) (a : Nat) (v : Byte) : (s.writeByte a v).freeCtr = s.freeCtr := by
  unfold State.writeByte; split <;> rfl

/-! ### memWrite -/

@[simp] theorem State.memWrite_alg (s : State) (a : Nat) (vs : List Byte) : (s.memWrite a vs).alg = s.alg := by
  induction vs generalizing s a with
  | nil => rfl
  | cons v vs ih => simp [State.memWrite, ih]
@[simp] theorem State.memWrite_life (s : State) (a : Nat) (vs : List Byte) : (s.memWrite a vs).life = s.life := by
  induction vs generalizing s a with
  | nil => rfl
  | cons v vs ih => simp [State.memWrite, ih]
@[simp] theorem State.memWrite_h (s : State) (a : Nat) (vs : List Byte) : (s.memWrite a vs).h = s.h := by
  induction vs generalizing s a with
  | nil => rfl
  | cons v vs ih => simp [State.memWrite, ih]
@[simp] theorem State.memWrite_off (s : State) (a : Nat) (vs : List Byte) : (s.memWrite a vs).off = s.off := by
  induction vs generalizing s a with
  | nil => rfl
  | cons v vs ih => simp [State.memWrite, ih]
@[simp] theorem State.memWrite_mlen (s : State) (a : Nat) (vs : List Byte) : (s.memWrite a vs).mlen = s.mlen := by
  induction vs generalizing s a with
  | nil => rfl
  | cons v vs ih => simp [State.memWrite, ih]
@[simp] theorem State.memWrite_cfg (s : State) (a : Nat) (vs : List Byte) : (s.memWrite a vs).cfg = s.cfg := by
  induction vs generalizing s a with
  | nil => rfl
  | cons v vs ih => simp [State.memWrite, ih]
@[simp] theorem State.memWrite_inbox (s : State) (a : Nat) (vs : List Byte) : (s.memWrite a vs).inbox = s.inbox := by
  induction vs generalizing s a with
  | nil => rfl
  | cons v vs ih => simp [State.memWrite, ih]
@[simp] theorem State.memWrite_outbox (s : State) (a : Nat) (vs : List Byte) : (s.memWrite a vs).outbox = s.outbox := by
  induction vs generalizing s a with
  | nil => rfl
  | cons v vs ih => simp [State.memWrite, ih]
@[simp] theorem State.memWrite_freeCtr (s : State) (a : Nat) (vs : List Byte) : (s.memWrite a vs).freeCtr = s.freeCtr := by
  induction vs generalizing s a with
  | nil => rfl
  | cons v vs ih => simp [State.memWrite, ih]

/-! ### clearBlock -/

@[simp] theorem State.clearBlock_alg (s : State) : (s.clearBlock).alg = s.alg := by
  unfold State.clearBlock; split <;> rfl
@[simp] theorem State.clearBlock_life (s : State) : (s.clearBlock).life = s.life := by
  unfold State.clearBlock; split <;> rfl
@[simp] theorem State.clearBlock_h (s : State) : (s.clearBlock).h = s.h := by
  unfold State.clearBlock; split <;> rfl
@[simp] theorem State.clearBlock_blkLo (s : State) : (s.clearBlock).blkLo = [] := by
  unfold State.clearBlock; split <;> rfl
@[simp] theorem State.clearBlock_off (s : State) : (s.clearBlock).off = s.off := by
  unfold State.clearBlock; split <;> rfl
@[simp] theorem State.clearBlock_mlen (s : State) : (s.clearBlock).mlen = s.mlen := by
  unfold State.clearBlock; split <;> rfl
@[simp] theorem State.clearBlock_cfg (s : State) : (s.clearBlock).cfg = s.cfg := by
  unfold State.clearBlock; split <;> rfl
@[simp] theorem State.clearBlock_inbox (s : State) : (s.clearBlock).inbox = s.inbox := by
  unfold State.clearBlock; split <;> rfl
@[simp] theorem State.clearBlock_outbox (s : State) : (s.clearBlock).outbox = s.outbox := by
  unfold State.clearBlock; split <;> rfl

/-! ### setChain -/

@[simp] theorem State.setChain_alg (s : State) (c : Chain) : (s.setChain c).alg = s.alg := by
  cases c <;> rfl
@[simp] theorem State.setChain_life (s : State) (c : Chain) : (s.setChain c).life = s.life := by
  cases c <;> rfl
@[simp] theorem State.setChain_blkLo (s : State) (c : Chain) : (s.setChain c).blkLo = s.blkLo := by
  cases c <;> rfl
@[simp] theorem State.setChain_blkHi (s : State) (c : Chain) : (s.setChain c).blkHi = s.blkHi := by
  cases c <;> rfl
@[simp] theorem State.setChain_off (s : State) (c : Chain) : (s.setChain c).off = s.off := by
  cases c <;> rfl
@[simp] theorem State.setChain_mlen (s : State) (c : Chain) : (s.setChain c).mlen = s.mlen := by
  cases c <;> rfl
@[simp] theorem State.setChain_cfg (s : State) (c : Chain) : (s.setChain c).cfg = s.cfg := by
  cases c <;> rfl
@[simp] theorem State.setChain_inbox (s : State) (c : Chain) : (s.setChain c).inbox = s.inbox := by
  cases c <;> rfl
@[simp] theorem State.setChain_outbox (s : State) (c : Chain) : (s.setChain c).outbox = s.outbox := by
  cases c <;> rfl

/-! ### compress -/

@[simp] theorem State.compress_alg (s : State) : (s.compress).alg = s.alg := by
  simp [State.compress]
@[simp] theorem State.compress_life (s : State) : (s.compress).life = s.life := by
  simp [State.compress]
@[simp] theorem State.compress_blkLo (s : State) : (s.compress).blkLo = [] := by
  simp [State.compress]
@[simp] theorem State.compress_off (s : State) : (s.compress).off = s.off := by
  simp [State.compress]
@[simp] theorem State.compress_mlen (s : State) : (s.compress).mlen = s.mlen := by
  simp [State.compress]
@[simp] theorem State.compress_cfg (s : State) : (s.compress).cfg = s.cfg := by
  simp [State.compress]
@[simp] theorem State.compress_inbox (s : State) : (s.compress).inbox = s.inbox := by
  simp [State.compress]
@[simp] theorem State.compress_outbox (s : State) : (s.compress).outbox = s.outbox := by
  simp [State.compress]

/-! ### stratReset -/

@[simp] theorem State.stratReset_alg (s : State) : (s.stratReset).alg = s.alg := by
  simp [State.stratReset]
@[simp] theorem State.stratReset_life (s : State) : (s.stratReset).life = s.life := by
  simp [State.stratReset]
@[simp] theorem State.stratReset_blkLo (s : State) : (s.stratReset).blkLo = [] := by
  simp [State.stratReset]
@[simp] theorem State.stratReset_off (s : State) : (s.stratReset).off = 0 := by
  simp [State.stratReset]
@[simp] theorem State.stratReset_mlen (s : State) : (s.stratReset).mlen = 0 := by
  simp [State.stratReset]
@[simp] theorem State.stratReset_cfg (s : State) : (s.stratReset).cfg = s.cfg := by
  simp [State.stratReset]
@[simp] theorem State.stratReset_inbox (s : State) : (s.stratReset).inbox = s.inbox := by
  simp [State.stratReset]
@[simp] theorem State.stratReset_outbox (s : State) : (s.stratReset).outbox = s.outbox := by
  simp [State.stratReset]

/-! ### startMessage -/

@[simp] theorem State.startMessage_alg (s : State) : (s.startMessage).alg = s.alg := by
  simp [State.startMessage]
@[simp] theorem State.startMessage_life (s : State) : (s.startMessage).life = .ready := by
  simp [State.startMessage]
@[simp] theorem State.startMessage_blkLo (s : State) : (s.startMessage).blkLo = [] := by
  simp [State.startMessage]
@[simp] theorem State.startMessage_off (s : State) : (s.startMessage).off = 0 := by
  simp [State.startMessage]
@[simp] theorem State.startMessage_mlen (s : State) : (s.startMessage).mlen = 0 := by
  simp [State.startMessage]
@[simp] theorem State.startMessage_cfg (s : State) : (s.startMessage).cfg = s.cfg := by
  simp [State.startMessage]
@[simp] theorem State.startMessage_inbox (s : State) : (s.startMessage).inbox = s.inbox := by
  simp [State.startMessage]
@[simp] theorem State.startMessage_outbox (s : State) : (s.startMessage).outbox = s.outbox := by
  simp [State.startMessage]

/-! ### initialise -/

@[simp] theorem State.initialise_alg (s : State) (x : Alg) : (s.initialise x).alg = x := by
  simp [State.initialise]
@[simp] theorem State.initialise_life (s : State) (x : Alg) : (s.initialise x).life = .ready := by
  simp [State.initialise]
@[simp] theorem State.initialise_blkLo (s : State) (x : Alg) : (s.initialise x).blkLo = [] := by
  simp [State.initialise]
@[simp] theorem State.initialise_off (s : State) (x : Alg) : (s.initialise x).off = 0 := by
  simp [State.initialise]
@[simp] theorem State.initialise_mlen (s : State) (x : Alg) : (s.initialise x).mlen = 0 := by
  simp [State.initialise]
@[simp] theorem State.initialise_cfg (s : State) (x : Alg) : (s.initialise x).cfg = s.cfg := by
  simp [State.initialise]
@[simp] theorem State.initialise_inbox (s : State) (x : Alg) : (s.initialise x).inbox = s.inbox := by
  simp [State.initialise]
@[simp] theorem State.initialise_outbox (s : State) (x : Alg) : (s.initialise x).outbox = s.outbox := by
  simp [State.initialise]

/-! ### setMsgSize -/

@[simp] theorem State.setMsgSize_alg (s : State) (n : Nat) : (s.setMsgSize n).alg = s.alg := by
  simp [State.setMsgSize]
@[simp] theorem State.setMsgSize_life (s : State) (n : Nat) : (s.setMsgSize n).life = s.life := by
  simp [State.setMsgSize]
@[simp] theorem State.setMsgSize_h (s : State) (n : Nat) : (s.setMsgSize n).h = s.h := by
  simp [State.setMsgSize]
@[simp] theorem State.setMsgSize_off (s : State) (n : Nat) : (s.setMsgSize n).off = s.off := by
  simp [State.setMsgSize]
@[simp] theorem State.setMsgSize_mlen (s : State) (n : Nat) : (s.setMsgSize n).mlen = s.mlen := by
  simp [State.setMsgSize]
@[simp] theorem State.setMsgSize_cfg (s : State) (n : Nat) : (s.setMsgSize n).cfg = s.cfg := by
  simp [State.setMsgSize]
@[simp] theorem State.setMsgSize_inbox (s : State) (n : Nat) : (s.setMsgSize n).inbox = s.inbox := by
  simp [State.setMsgSize]
@[simp] theorem State.setMsgSize_outbox (s : State) (n : Nat) : (s.setMsgSize n).outbox = s.outbox := by
  simp [State.setMsgSize]
@[simp] theorem State.setMsgSize_freeCtr (s : State) (n : Nat) : (s.setMsgSize n).freeCtr = s.freeCtr := by
  simp [State.setMsgSize]

/-! ### pad -/

@[simp] theorem State.pad_alg (s : State) : (s.pad).alg = s.alg := by
  simp [State.pad]
@[simp] theorem State.pad_life (s : State) : (s.pad).life = s.life := by
  simp [State.pad]
@[simp] theorem State.pad_h (s : State) : (s.pad).h = s.h := by
  simp [State.pad]
@[simp] theorem State.pad_off (s : State) : (s.pad).off = s.off := by
  simp [State.pad]
@[simp] theorem State.pad_mlen (s : State) : (s.pad).mlen = s.mlen := by
  simp [State.pad]
@[simp] theorem State.pad_cfg (s : State) : (s.pad).cfg = s.cfg := by
  simp [State.pad]
@[simp] theorem State.pad_inbox (s : State) : (s.pad).inbox = s.inbox := by
  simp [State.pad]
@[simp] theorem State.pad_outbox (s : State) : (s.pad).outbox = s.outbox := by
  simp [State.pad]
@[simp] theorem State.pad_freeCtr (s : State) : (s.pad).freeCtr = s.freeCtr := by
  simp [State.pad]

/-! ### padAndCompress -/

@[simp] theorem State.padAndCompress_alg (s : State) : (s.padAndCompress).alg = s.alg := by
  unfold State.padAndCompress; simp only []; split <;> simp
@[simp] theorem State.padAndCompress_life (s : State) : (s.padAndCompress).life = s.life := by
  unfold State.padAndCompress; simp only []; split <;> simp
@[simp] theorem State.padAndCompress_blkLo (s : State) : (s.padAndCompress).blkLo = [] := by
  unfold State.padAndCompress; simp only []; split <;> simp
@[simp] theorem State.padAndCompress_off (s : State) : (s.padAndCompress).off = s.off := by
  unfold State.padAndCompress; simp only []; split <;> simp
@[simp] theorem State.padAndCompress_mlen (s : State) : (s.padAndCompress).mlen = s.mlen := by
  unfold State.padAndCompress; simp only []; split <;> simp
@[simp] theorem State.padAndCompress_cfg (s : State) : (s.padAndCompress).cfg = s.cfg := by
  unfold State.padAndCompress; simp only []; split <;> simp
@[simp] theorem State.padAndCompress_inbox (s : State) : (s.padAndCompress).inbox = s.inbox := by
  unfold State.padAndCompress; simp only []; split <;> simp
@[simp] theorem State.padAndCompress_outbox (s : State) : (s.padAndCompress).outbox = s.outbox := by
  unfold State.padAndCompress; simp only []; split <;> simp

/-! ### absorbByte -/

@[simp] theorem State.absorbByte_alg (s : State) (b : Byte) : (s.absorbByte b).alg = s.alg := by
  unfold State.absorbByte; simp only []; split <;> simp
@[simp] theorem State.absorbByte_life (s : State) (b : Byte) : (s.absorbByte b).life = s.life := by
  unfold State.absorbByte; simp only []; split <;> simp
@[simp] theorem State.absorbByte_mlen (s : State) (b : Byte) : (s.absorbByte b).mlen = s.mlen := by
  unfold State.absorbByte; simp only []; split <;> simp
@[simp] theorem State.absorbByte_cfg (s : State) (b : Byte) : (s.absorbByte b).cfg = s.cfg := by
  unfold State.absorbByte; simp only []; split <;> simp
@[simp] theorem State.absorbByte_inbox (s : State) (b : Byte) : (s.absorbByte b).inbox = s.inbox := by
  unfold State.absorbByte; simp only []; split <;> simp
@[simp] theorem State.absorbByte_outbox (s : State) (b : Byte) : (s.absorbByte b).outbox = s.outbox := by
  unfold State.absorbByte; simp only []; split <;> simp

/-! ### absorb -/

@[simp] theorem State.absorb_alg (s : State) (data : List Byte) : (s.absorb data).alg = s.alg := by
  induction data generalizing s with
  | nil => rfl
  | cons b bs ih => simpa [State.absorb] using ih (s.absorbByte b)
@[simp] theorem State.absorb_life (s : State) (data : List Byte) : (s.absorb data).life = s.life := by
  induction data generalizing s with
  | nil => rfl
  | cons b bs ih => simpa [State.absorb] using ih (s.absorbByte b)
@[simp] theorem State.absorb_mlen (s : State) (data : List Byte) : (s.absorb data).mlen = s.mlen := by
  induction data generalizing s with
  | nil => rfl
  | cons b bs ih => simpa [State.absorb] using ih (s.absorbByte b)
@[simp] theorem State.absorb_cfg (s : State) (data : List Byte) : (s.absorb data).cfg = s.cfg := by
  induction data generalizing s with
  | nil => rfl
  | cons b bs ih => simpa [State.absorb] using ih (s.absorbByte b)
@[simp] theorem State.absorb_inbox (s : State) (data : List Byte) : (s.absorb data).inbox = s.inbox := by
  induction data generalizing s with
  | nil => rfl
  | cons b bs ih => simpa [State.absorb] using ih (s.absorbByte b)
@[simp] theorem State.absorb_outbox (s : State) (data : List Byte) : (s.absorb data).outbox = s.outbox := by
  induction data generalizing s with
  | nil => rfl
  | cons b bs ih => simpa [State.absorb] using ih (s.absorbByte b)

/-! ### accept -/

@[simp] theorem State.accept_alg (s : State) (data : List Byte) : (s.accept data).alg = s.alg := by
  simp [State.accept]
@[simp] theorem State.accept_life (s : State) (data : List Byte) : (s.accept data).life = s.life := by
  simp [State.accept]
@[simp] theorem State.accept_h (s : State) (data : List Byte) : (s.accept data).h = (s.absorb data).h := by
  simp [State.accept]
@[simp] theorem State.accept_blkLo (s : State) (data : List Byte) : (s.accept data).blkLo = (s.absorb data).blkLo := by
  simp [State.accept]
@[simp] theorem State.accept_blkHi (s : State) (data : List Byte) : (s.accept data).blkHi = (s.absorb data).blkHi := by
  simp [State.accept]
@[simp] theorem State.accept_off (s : State) (data : List Byte) : (s.accept data).off = (s.absorb data).off := by
  simp [State.accept]
@[simp] theorem State.accept_mlen (s : State) (data : List Byte) : (s.accept data).mlen = BitVec.ofNat 64 (s.mlen.toNat + data.length) := by
  simp [State.accept]
@[simp] theorem State.accept_cfg (s : State) (data : List Byte) : (s.accept data).cfg = s.cfg := by
  simp [State.accept]
@[simp] theorem State.accept_inbox (s : State) (data : List Byte) : (s.accept data).inbox = s.inbox := by
  simp [State.accept]
@[simp] theorem State.accept_outbox (s : State) (data : List Byte) : (s.accept data).outbox = s.outbox ++ [.result true] := by
  simp [State.accept]
@[simp] theorem State.accept_freeCtr (s : State) (data : List Byte) : (s.accept data).freeCtr = (s.absorb data).freeCtr := by
  simp [State.accept]

/-! ### finish -/

@[simp] theorem State.finish_alg (s : State) : (s.finish).alg = s.alg := by
  simp [State.finish]
@[simp] theorem State.finish_life (s : State) : (s.finish).life = .finalized := by
  simp [State.finish]
@[simp] theorem State.finish_h (s : State) : (s.finish).h = s.padAndCompress.h := by
  simp [State.finish]
@[simp] theorem State.finish_blkLo (s : State) : (s.finish).blkLo = [] := by
  simp [State.finish]
@[simp] theorem State.finish_blkHi (s : State) : (s.finish).blkHi = s.padAndCompress.blkHi := by
  simp [State.finish]
@[simp] theorem State.finish_off (s : State) : (s.finish).off = 0 := by
  simp [State.finish]
@[simp] theorem State.finish_mlen (s : State) : (s.finish).mlen = s.mlen := by
  simp [State.finish]
@[simp] theorem State.finish_cfg (s : State) : (s.finish).cfg = s.cfg := by
  simp [State.finish]
@[simp] theorem State.finish_inbox (s : State) : (s.finish).inbox = s.inbox := by
  simp [State.finish]
@[simp] theorem State.finish_freeCtr (s : State) : (s.finish).freeCtr = s.padAndCompress.freeCtr := by
  simp [State.finish]

end Sys2Proof.Machine
end

