-- ==== Sys2Proof/Laws/Block.lean ====
section
/-! SUPPORT. The Block as bytes: what each operation leaves at each address, and that each keeps the Block well formed. -/

namespace Sys2Proof.Machine

/-- The Block is what its two halves are. -/
theorem State.BlockWf.congr {s t : State} (hs : s.BlockWf) (hlo : t.blkLo = s.blkLo) (hhi : t.blkHi = s.blkHi) :
    t.BlockWf := ⟨hlo ▸ hs.lo_wf, hhi ▸ hs.hi_wf, hlo ▸ hs.lo_range, hhi ▸ hs.hi_range⟩

theorem readByte_congr {s t : State} (hlo : t.blkLo = s.blkLo) (hhi : t.blkHi = s.blkHi) (a : Nat) :
    t.readByte a = s.readByte a := by simp [State.readByte, hlo, hhi]

@[simp] theorem readByte_setAlg (s : State) (x : Alg) (a : Nat) : (s.setAlg x).readByte a = s.readByte a := rfl
@[simp] theorem readByte_setLife (s : State) (x : Life) (a : Nat) : (s.setLife x).readByte a = s.readByte a := rfl
@[simp] theorem readByte_setOff (s : State) (n a : Nat) : (s.setOff n).readByte a = s.readByte a := rfl
@[simp] theorem readByte_setMlen (s : State) (n a : Nat) : (s.setMlen n).readByte a = s.readByte a := rfl
@[simp] theorem readByte_respond (s : State) (r : Response) (a : Nat) : (s.respond r).readByte a = s.readByte a := rfl
@[simp] theorem readByte_raiseLengthOverflow (s : State) (a : Nat) :
    s.raiseLengthOverflow.readByte a = s.readByte a := rfl
@[simp] theorem readByte_setChain (s : State) (c : Chain) (a : Nat) : (s.setChain c).readByte a = s.readByte a := by
  cases c <;> rfl

/-- Read after write, at every address. -/
theorem readByte_writeByte {s : State} (h : s.BlockWf) (a b : Nat) (v : Byte) :
    (s.writeByte a v).readByte b = if b = a then v else s.readByte b := by
  unfold State.writeByte State.readByte
  by_cases ha : a < 64
  · by_cases hb : b < 64
    · simp [ha, hb, Memory.read_write h.lo_wf]
    · have : b ≠ a := by omega
      simp [ha, hb, this]
  · by_cases hb : b < 64
    · have : b ≠ a := by omega
      simp [ha, hb, this]
    · simp [ha, hb, Memory.read_write h.hi_wf]

/-- A write below 128 keeps the Block well formed. -/
theorem State.BlockWf.writeByte {s : State} (h : s.BlockWf) {a : Nat} (ha : a < 128) (v : Byte) :
    (s.writeByte a v).BlockWf := by
  unfold State.writeByte
  split
  · rename_i hlt
    refine ⟨Memory.write_wf h.lo_wf _ _, h.hi_wf, fun c hc => ?_, h.hi_range⟩
    rcases Memory.mem_write hc with hc | ⟨rfl, -⟩
    · exact h.lo_range c hc
    · exact hlt
  · rename_i hge
    refine ⟨h.lo_wf, Memory.write_wf h.hi_wf _ _, h.lo_range, fun c hc => ?_⟩
    rcases Memory.mem_write hc with hc | ⟨rfl, -⟩
    · exact h.hi_range c hc
    · exact ⟨by simp only; omega, ha⟩

/-- A sequence of writes below 128 keeps the Block well formed. -/
theorem State.BlockWf.memWrite {s : State} (h : s.BlockWf) {a : Nat} {vs : List Byte} (ha : a + vs.length ≤ 128) :
    (s.memWrite a vs).BlockWf := by
  induction vs generalizing s a with
  | nil => exact h
  | cons v vs ih =>
    simp only [List.length_cons] at ha
    exact ih (h.writeByte (by omega) v) (by omega)

/-- Every byte after a sequence of writes. -/
theorem readByte_memWrite {s : State} (h : s.BlockWf) {a : Nat} {vs : List Byte} (ha : a + vs.length ≤ 128) (b : Nat) :
    (s.memWrite a vs).readByte b = if a ≤ b ∧ b < a + vs.length then vs.getD (b - a) 0 else s.readByte b := by
  induction vs generalizing s a with
  | nil =>
    have : ¬ (a ≤ b ∧ b < a + ([] : List Byte).length) := by simp only [List.length_nil]; omega
    rw [if_neg this]; rfl
  | cons v vs ih =>
    simp only [List.length_cons] at ha ⊢
    rw [State.memWrite, ih (h.writeByte (by omega) v) (by omega), readByte_writeByte h]
    by_cases hb : b = a
    · subst hb
      have h1 : ¬ (b + 1 ≤ b ∧ b < b + 1 + vs.length) := by omega
      have h2 : b ≤ b ∧ b < b + (vs.length + 1) := by omega
      rw [if_neg h1, if_pos h2]; simp
    · by_cases h1 : a + 1 ≤ b ∧ b < a + 1 + vs.length
      · have h2 : a ≤ b ∧ b < a + (vs.length + 1) := by omega
        obtain ⟨k, rfl⟩ : ∃ k, b = a + 1 + k := ⟨b - (a + 1), by omega⟩
        rw [if_pos h1, if_pos h2]
        have e1 : a + 1 + k - (a + 1) = k := by omega
        have e2 : a + 1 + k - a = k + 1 := by omega
        rw [e1, e2, List.getD_cons_succ]
      · have h2 : ¬ (a ≤ b ∧ b < a + (vs.length + 1)) := by omega
        rw [if_neg h1, if_neg h2, if_neg hb]

theorem blockBytes_cases (alg : Alg) : alg.blockBytes = 64 ∨ alg.blockBytes = 128 := by
  cases alg <;> simp [Alg.blockBytes]

theorem blockBytes_pos (alg : Alg) : 0 < alg.blockBytes := by
  cases alg <;> simp [Alg.blockBytes]

theorem blockBytes_le (alg : Alg) : alg.blockBytes ≤ 128 := by
  cases alg <;> simp [Alg.blockBytes]

/-- A cleared Block reads as 0x00 at all its B addresses (R30). -/
theorem readByte_clearBlock (s : State) {a : Nat} (ha : a < s.alg.blockBytes) : s.clearBlock.readByte a = 0 := by
  unfold State.clearBlock State.readByte
  rcases blockBytes_cases s.alg with h | h
  · have : a < 64 := by omega
    simp [h, this, Memory.read]
  · simp [h, Memory.read]

/-- Clearing leaves the Block well formed, whatever it held. -/
theorem clearBlock_wf (s : State) : s.clearBlock.BlockWf := by
  have hlo : s.clearBlock.blkLo = [] := State.clearBlock_blkLo s
  have hhi : s.clearBlock.blkHi = [] ∨ s.clearBlock.blkHi = unreadBlock s.freeCtr := by
    by_cases hb : s.alg.blockBytes = 128
    · left; simp [State.clearBlock, hb]
    · right; simp [State.clearBlock, hb]
  obtain ⟨hw, hr⟩ := unreadBlock_spec s.freeCtr
  refine ⟨hlo ▸ Memory.nil_wf, ?_, by simp, ?_⟩
  · rcases hhi with h | h <;> rw [h]
    · exact Memory.nil_wf
    · exact hw
  · rcases hhi with h | h <;> rw [h]
    · simp
    · exact hr

/-- A new message has a Block of zeros, well formed (R101, R102, R130). -/
theorem readByte_startMessage (s : State) {a : Nat} (ha : a < s.alg.blockBytes) : s.startMessage.readByte a = 0 :=
  readByte_clearBlock (s.setChain s.alg.iv) (by simpa using ha)

theorem startMessage_wf (s : State) : s.startMessage.BlockWf :=
  (clearBlock_wf (s.setChain s.alg.iv)).congr rfl rfl

theorem readByte_initialise (s : State) {alg : Alg} {a : Nat} (ha : a < alg.blockBytes) :
    (s.initialise alg).readByte a = 0 := readByte_startMessage (s.setAlg alg) ha

theorem initialise_wf (s : State) (alg : Alg) : (s.initialise alg).BlockWf := startMessage_wf _

theorem compress_wf (s : State) : s.compress.BlockWf := clearBlock_wf _

/-- After COMPRESS the Block reads as 0x00 (R108). -/
theorem readByte_compress (s : State) {a : Nat} (ha : a < s.alg.blockBytes) : s.compress.readByte a = 0 :=
  readByte_clearBlock _ (by simpa using ha)

@[simp] theorem length_memRead (s : State) (a n : Nat) : (s.memRead a n).length = n := by simp [State.memRead]

/-- MemRead is its bytes. -/
theorem getElem_memRead (s : State) (a n j : Nat) (h : j < (s.memRead a n).length) :
    (s.memRead a n)[j] = s.readByte (a + j) := by simp [State.memRead]

theorem memRead_congr {s t : State} {a n : Nat} (h : ∀ j, j < n → s.readByte (a + j) = t.readByte (a + j)) :
    s.memRead a n = t.memRead a n := by
  unfold State.memRead
  exact List.map_congr_left fun j hj => h j (List.mem_range.mp hj)

theorem memRead_succ (s : State) (a n : Nat) : s.memRead a (n + 1) = s.memRead a n ++ [s.readByte (a + n)] := by
  simp [State.memRead, List.range_succ]

end Sys2Proof.Machine
end

