-- ==== Sys2Proof/Laws/Chain.lean ====
section
/-! SUPPORT. The ChainingState: what is written to it is what is read from it, and every PROCESS keeps its shape. -/

namespace Sys2Proof.Machine

/-- The value has NH words of the algorithm's width (R22). -/
def chainFits (alg : Alg) : Chain → Prop
  | .w32 ws => alg.wordBits = 32 ∧ ws.length = alg.chainWords
  | .w64 ws => alg.wordBits = 64 ∧ ws.length = alg.chainWords

theorem chainWords_le (alg : Alg) : alg.chainWords ≤ 8 := by cases alg <;> decide

theorem wordBits_cases (alg : Alg) : alg.wordBits = 32 ∨ alg.wordBits = 64 := by
  cases alg <;> simp [Alg.wordBits]

theorem chainWords_of_64 {alg : Alg} (h : alg.wordBits = 64) : alg.chainWords = 8 := by
  cases alg <;> simp_all [Alg.wordBits, Alg.chainWords]

/-- The ChainingState of any state has its algorithm's shape. -/
theorem chain_fits (s : State) : chainFits s.alg s.chain := by
  have hn : min s.alg.chainWords 8 = s.alg.chainWords := Nat.min_eq_left (chainWords_le _)
  unfold State.chain
  rcases wordBits_cases s.alg with h | h <;> simp [h, chainFits, hn]

/-- An initial vector has its algorithm's shape. -/
theorem iv_fits (alg : Alg) : chainFits alg alg.iv := by
  cases alg <;> exact ⟨rfl, rfl⟩

/-- One compression keeps the shape, whatever it is given. -/
theorem process_fits (alg : Alg) (c : Chain) (blk : List Byte) : chainFits alg (process alg c blk) := by
  cases alg <;> exact ⟨rfl, rfl⟩

@[simp] theorem word_ofWord (w : Word64) : (HReg.ofWord w).word = w := by
  unfold HReg.word HReg.ofWord
  apply BitVec.eq_of_getLsbD_eq
  intro i hi
  rw [BitVec.getLsbD_append]
  by_cases h : i < 32
  · simp [h]
  · have h1 : i - 32 < 32 := by omega
    have h2 : 32 + (i - 32) = i := by omega
    simp [h, h1, h2]

/-- What is written to H is what is read from it (R22, R23). -/
theorem chain_setChain {s : State} {c : Chain} (h : chainFits s.alg c) : (s.setChain c).chain = c := by
  cases c with
  | w32 ws =>
    obtain ⟨hw, hl⟩ := h
    have hn := chainWords_le s.alg
    simp only [State.chain, State.setChain_alg, hw, if_true]
    congr 1
    apply List.ext_getElem
    · simp [State.setChain, hl]; omega
    · intro i h1 h2
      simp [State.setChain, h2]
  | w64 ws =>
    obtain ⟨hw, hl⟩ := h
    have hn := chainWords_of_64 hw
    simp only [State.chain, State.setChain_alg, hw]
    rw [if_neg (by decide)]
    congr 1
    apply List.ext_getElem
    · simp [State.setChain, hl, hn]
    · intro i h1 h2
      simp [State.setChain, h2]

/-- The ChainingState is a view of ALG and H. -/
theorem chain_congr {s t : State} (ha : t.alg = s.alg) (hh : t.h = s.h) : t.chain = s.chain := by
  simp [State.chain, ha, hh]

@[simp] theorem chain_setLife (s : State) (x : Life) : (s.setLife x).chain = s.chain := rfl
@[simp] theorem chain_setOff (s : State) (n : Nat) : (s.setOff n).chain = s.chain := rfl
@[simp] theorem chain_setMlen (s : State) (n : Nat) : (s.setMlen n).chain = s.chain := rfl
@[simp] theorem chain_respond (s : State) (r : Response) : (s.respond r).chain = s.chain := rfl
@[simp] theorem chain_raiseLengthOverflow (s : State) : s.raiseLengthOverflow.chain = s.chain := rfl
@[simp] theorem chain_writeByte (s : State) (a : Nat) (v : Byte) : (s.writeByte a v).chain = s.chain :=
  chain_congr (by simp) (by simp)
@[simp] theorem chain_memWrite (s : State) (a : Nat) (vs : List Byte) : (s.memWrite a vs).chain = s.chain :=
  chain_congr (by simp) (by simp)
@[simp] theorem chain_clearBlock (s : State) : s.clearBlock.chain = s.chain := chain_congr (by simp) (by simp)
@[simp] theorem chain_setMsgSize (s : State) (n : Nat) : (s.setMsgSize n).chain = s.chain :=
  chain_congr (by simp) (by simp)
@[simp] theorem chain_pad (s : State) : s.pad.chain = s.chain := chain_congr (by simp) (by simp)

/-- COMPRESS replaces the ChainingState by PROCESS of it and the Block (R108). -/
@[simp] theorem chain_compress (s : State) :
    s.compress.chain = process s.alg s.chain (s.memRead 0 s.alg.blockBytes) := by
  unfold State.compress
  rw [chain_clearBlock, chain_setChain (process_fits _ _ _)]

/-- STRAT_RESET leaves the initial vector (R130). -/
@[simp] theorem chain_stratReset (s : State) : s.stratReset.chain = s.alg.iv := by
  unfold State.stratReset
  rw [chain_setMlen, chain_setOff, chain_clearBlock, chain_setChain (iv_fits _)]

@[simp] theorem chain_startMessage (s : State) : s.startMessage.chain = s.alg.iv := by
  simp [State.startMessage]

@[simp] theorem chain_initialise (s : State) (alg : Alg) : (s.initialise alg).chain = alg.iv := by
  simp [State.initialise]

end Sys2Proof.Machine
end

