-- ==== Sys2Proof/Laws/Absorb.lean ====
section
/-! SUPPORT. What absorbing one byte does, said once, and its consequences for a whole UPDATE. -/

namespace Sys2Proof.Machine

/-- A state in which the Block is well formed and OFF lies in it (R28). -/
structure State.Absorbing (s : State) : Prop where
  wf : s.BlockWf
  off_lt : s.off < s.alg.blockBytes

/-- A byte that does not fill the Block (R105). -/
theorem absorbByte_partial {s : State} (b : Byte) (h : s.off + 1 ≠ s.alg.blockBytes) :
    s.absorbByte b = (s.writeByte s.off b).setOff (s.off + 1) := by
  simp [State.absorbByte, h]

/-- A byte that fills the Block: it is compressed at once and OFF returns to 0 (R106). -/
theorem absorbByte_full {s : State} (b : Byte) (h : s.off + 1 = s.alg.blockBytes) :
    s.absorbByte b = (((s.writeByte s.off b).setOff (s.off + 1)).compress).setOff 0 := by
  simp [State.absorbByte, h]

/-- OFF after one byte. -/
theorem absorbByte_off {s : State} (h : s.off < s.alg.blockBytes) (b : Byte) :
    (s.absorbByte b).off = (s.off + 1) % s.alg.blockBytes := by
  by_cases hf : s.off + 1 = s.alg.blockBytes
  · rw [absorbByte_full b hf, hf]; simp
  · rw [absorbByte_partial b hf, Nat.mod_eq_of_lt (by omega)]; simp

theorem State.Absorbing.absorbByte {s : State} (h : s.Absorbing) (b : Byte) : (s.absorbByte b).Absorbing := by
  have hB := blockBytes_le s.alg
  have ho := h.off_lt
  refine ⟨?_, ?_⟩
  · by_cases hf : s.off + 1 = s.alg.blockBytes
    · rw [absorbByte_full b hf]
      exact (compress_wf _).congr rfl rfl
    · rw [absorbByte_partial b hf]
      exact (h.wf.writeByte (by omega) b).congr rfl rfl
  · rw [absorbByte_off ho, State.absorbByte_alg]
    exact Nat.mod_lt _ (blockBytes_pos _)

theorem absorb_nil (s : State) : s.absorb [] = s := rfl

theorem absorb_cons (s : State) (b : Byte) (bs : List Byte) : s.absorb (b :: bs) = (s.absorbByte b).absorb bs := rfl

/-- Absorbing does not see where one UPDATE ends and the next begins (R119). -/
theorem absorb_append (s : State) (xs ys : List Byte) : s.absorb (xs ++ ys) = (s.absorb xs).absorb ys := by
  simp [State.absorb]

/-- OFF after an UPDATE is `(OFF + N) mod B` (R36). -/
theorem absorb_off {s : State} (h : s.off < s.alg.blockBytes) (data : List Byte) :
    (s.absorb data).off = (s.off + data.length) % s.alg.blockBytes := by
  induction data generalizing s with
  | nil => exact (Nat.mod_eq_of_lt h).symm
  | cons b bs ih =>
    have hb := absorbByte_off h b
    rw [absorb_cons, ih (by rw [hb, State.absorbByte_alg]; exact Nat.mod_lt _ (by omega)), hb, State.absorbByte_alg,
      List.length_cons, Nat.mod_add_mod]
    congr 1
    omega

theorem State.Absorbing.absorb {s : State} (h : s.Absorbing) (data : List Byte) : (s.absorb data).Absorbing := by
  induction data generalizing s with
  | nil => exact h
  | cons b bs ih => exact ih (h.absorbByte b)

/-- One byte, at every address of the Block. -/
theorem readByte_absorbByte {s : State} (h : s.Absorbing) (b : Byte) {a : Nat} (ha : a < s.alg.blockBytes) :
    (s.absorbByte b).readByte a =
      if s.off + 1 = s.alg.blockBytes then 0 else if a = s.off then b else s.readByte a := by
  by_cases hf : s.off + 1 = s.alg.blockBytes
  · rw [absorbByte_full b hf, if_pos hf, readByte_setOff]
    exact readByte_compress _ (by simpa using ha)
  · rw [absorbByte_partial b hf, if_neg hf, readByte_setOff, readByte_writeByte h.wf]

/-- One byte, in the ChainingState: PROCESS of the Block whose last byte it is, or nothing. -/
theorem chain_absorbByte {s : State} (h : s.Absorbing) (b : Byte) :
    (s.absorbByte b).chain =
      if s.off + 1 = s.alg.blockBytes then process s.alg s.chain (s.memRead 0 s.off ++ [b]) else s.chain := by
  by_cases hf : s.off + 1 = s.alg.blockBytes
  · rw [absorbByte_full b hf, if_pos hf, chain_setOff, chain_compress]
    have hr : ((s.writeByte s.off b).setOff (s.off + 1)).memRead 0 s.alg.blockBytes = s.memRead 0 s.off ++ [b] := by
      rw [← hf, memRead_succ]
      congr 1
      · apply memRead_congr
        intro j hj
        rw [readByte_setOff, readByte_writeByte h.wf, if_neg (by omega)]
      · rw [readByte_setOff, readByte_writeByte h.wf, if_pos (by omega)]
    simp [hr]
  · rw [absorbByte_partial b hf, if_neg hf]; simp

end Sys2Proof.Machine
end

