-- ==== Sys2Proof/Laws/Exec.lean ====
section
/-! SUPPORT. What a command can do, and what a step can do, each said once. -/

namespace Sys2Proof.Machine

@[simp] theorem initOf_ne_reset (alg : Alg) : Instr.initOf alg ≠ .reset := by cases alg <;> nofun
@[simp] theorem initOf_ne_update (alg : Alg) (data : List Byte) : Instr.initOf alg ≠ .update data := by
  cases alg <;> nofun
@[simp] theorem initOf_ne_final (alg : Alg) : Instr.initOf alg ≠ .final := by cases alg <;> nofun
@[simp] theorem reset_ne_initOf (alg : Alg) : Instr.reset ≠ .initOf alg := (initOf_ne_reset alg).symm
@[simp] theorem update_ne_initOf (alg : Alg) (data : List Byte) : Instr.update data ≠ .initOf alg :=
  (initOf_ne_update alg data).symm
@[simp] theorem final_ne_initOf (alg : Alg) : Instr.final ≠ .initOf alg := (initOf_ne_final alg).symm

theorem initOf_injective {a b : Alg} (h : Instr.initOf a = .initOf b) : a = b := by
  cases a <;> cases b <;> first | rfl | cases h

/-- INIT has its effect in every state (R101). -/
theorem exec_initOf (alg : Alg) (s : State) : exec (.initOf alg) s = .next (s.initialise alg) := by
  cases alg <;> rfl

/-- UPDATE in READY (R103, R104). -/
theorem exec_update_ready {s : State} (h : s.life = .ready) (data : List Byte) :
    exec (.update data) s =
      if lengthLimit < s.mlen.toNat + data.length then .next s.raiseLengthOverflow
      else if data ≠ [] ∧ s.alg.blockBytes ≤ s.off then .fault .blockIndexOutOfRange
      else .next (s.accept data) := by
  simp [exec, execUpdate, h, Life.updateFault, lengthOverflow]

/-- FINAL in READY (R109). -/
theorem exec_final_ready {s : State} (h : s.life = .ready) :
    exec .final s = if s.off < s.alg.blockBytes then .next s.finish else .fault .blockIndexOutOfRange := by
  simp [exec, execFinal, h, Life.finalFault]

/-- RESET where an algorithm is selected (R102). -/
theorem exec_reset_configured {s : State} (h : s.life ≠ .unconfigured) :
    exec .reset s = .next s.startMessage := by
  cases hl : s.life <;> simp_all [exec, execReset, Life.resetFault]

/-- Every command that answers a next state is one of these. -/
theorem exec_next_cases {i : Instr} {s t : State} (h : exec i s = .next t) :
    (∃ alg, i = .initOf alg ∧ t = s.initialise alg) ∨
    (i = .reset ∧ s.life ≠ .unconfigured ∧ t = s.startMessage) ∨
    (∃ data, i = .update data ∧ s.life = .ready ∧ lengthLimit < s.mlen.toNat + data.length ∧
      t = s.raiseLengthOverflow) ∨
    (∃ data, i = .update data ∧ s.life = .ready ∧ s.mlen.toNat + data.length ≤ lengthLimit ∧
      (data = [] ∨ s.off < s.alg.blockBytes) ∧ t = s.accept data) ∨
    (i = .final ∧ s.life = .ready ∧ s.off < s.alg.blockBytes ∧ t = s.finish) := by
  have init (alg : Alg) (hi : i = .initOf alg) : ∃ alg, i = .initOf alg ∧ t = s.initialise alg := by
    subst hi
    rw [exec_initOf] at h
    exact ⟨alg, rfl, (Host.Outcome.next.inj h).symm⟩
  cases i with
  | initMD4 => exact .inl (init .md4 rfl)
  | initMD5 => exact .inl (init .md5 rfl)
  | initSHA1 => exact .inl (init .sha1 rfl)
  | initSHA224 => exact .inl (init .sha224 rfl)
  | initSHA256 => exact .inl (init .sha256 rfl)
  | initSHA384 => exact .inl (init .sha384 rfl)
  | initSHA512 => exact .inl (init .sha512 rfl)
  | reset =>
    by_cases hl : s.life = .unconfigured
    · simp [exec, execReset, hl, Life.resetFault] at h
    · rw [exec_reset_configured hl] at h
      exact .inr (.inl ⟨rfl, hl, (Host.Outcome.next.inj h).symm⟩)
  | update data =>
    by_cases hl : s.life = .ready
    · rw [exec_update_ready hl] at h
      split at h
      · exact .inr (.inr (.inl ⟨data, rfl, hl, ‹_›, (Host.Outcome.next.inj h).symm⟩))
      · split at h
        · cases h
        · rename_i h1 h2
          refine .inr (.inr (.inr (.inl ⟨data, rfl, hl, by omega, ?_, (Host.Outcome.next.inj h).symm⟩)))
          by_cases hd : data = []
          · exact .inl hd
          · exact .inr (Nat.lt_of_not_le fun hb => h2 ⟨hd, hb⟩)
    · cases hl' : s.life <;> simp_all [exec, execUpdate, Life.updateFault]
  | final =>
    by_cases hl : s.life = .ready
    · rw [exec_final_ready hl] at h
      split at h
      · exact .inr (.inr (.inr (.inr ⟨rfl, hl, ‹_›, (Host.Outcome.next.inj h).symm⟩)))
      · cases h
    · cases hl' : s.life <;> simp_all [exec, execFinal, Life.finalFault]

/-- No command touches the inbox or the parameters. -/
theorem exec_keeps_inbox_cfg {i : Instr} {s t : State} (h : exec i s = .next t) :
    t.inbox = s.inbox ∧ t.cfg = s.cfg := by
  rcases exec_next_cases h with ⟨_, -, rfl⟩ | ⟨-, -, rfl⟩ | ⟨_, -, -, -, rfl⟩ | ⟨_, -, -, -, -, rfl⟩ | ⟨-, -, -, rfl⟩ <;>
    simp

/-- A step that answers a next state is idle, or is the oldest command of the inbox. -/
theorem step_next_cases {s t : State} (h : step s = .next t) :
    (s.inbox = [] ∧ t = s) ∨
    (∃ tr rest i, s.inbox = tr :: rest ∧ decode tr = .ok i ∧ exec i { s with inbox := rest } = .next t) := by
  unfold step nextCommand at h
  cases hb : s.inbox with
  | nil =>
    rw [hb] at h
    exact .inl ⟨rfl, (Host.Outcome.next.inj h).symm⟩
  | cons tr rest =>
    rw [hb] at h
    simp only [transact] at h
    cases hd : decode tr with
    | ok i => rw [hd] at h; exact .inr ⟨tr, rest, i, rfl, hd, h⟩
    | error e => rw [hd] at h; cases e <;> cases h

end Sys2Proof.Machine
end

