-- ==== Sys2Proof/Laws/Final.lean ====
section
/-! SUPPORT. The padding of FINAL, byte by byte: marker and zero fill, length field, and the Block after the last
compression. -/

namespace Sys2Proof.Machine

@[simp] theorem length_toLE (n v : Nat) : (toLE n v).length = n := by
  induction n generalizing v with
  | zero => rfl
  | succ n ih => simp [toLE, ih]

@[simp] theorem length_toBytes (ord : ByteOrder) (n v : Nat) : (toBytes ord n v).length = n := by
  cases ord <;> simp [toBytes, toBE]

/-- Byte k of toLE_n(v) (R12). -/
theorem getD_toLE {n k : Nat} (v : Nat) (hk : k < n) : (toLE n v).getD k 0 = BitVec.ofNat 8 (v / 256 ^ k) := by
  induction n generalizing v k with
  | zero => omega
  | succ n ih =>
    cases k with
    | zero => simp [toLE]
    | succ k =>
      rw [toLE, List.getD_cons_succ, ih _ (by omega), Nat.div_div_eq_div_mul, Nat.pow_succ, Nat.mul_comm]

/-- Byte k of toBE_n(v), counted from the end (R12). -/
theorem getD_toBE {n k : Nat} (v : Nat) (hk : k < n) :
    (toBE n v).getD k 0 = BitVec.ofNat 8 (v / 256 ^ (n - 1 - k)) := by
  have h : n - 1 - k < n := by omega
  rw [← getD_toLE v h, toBE, List.getD_eq_getElem _ _ (by simpa using hk), List.getD_eq_getElem _ _ (by simpa using h),
    List.getElem_reverse]
  simp

/-- LE(toLE_n(v)) = v mod 2^(8n) (R12). -/
theorem fromLE_toLE (n v : Nat) : fromLE (toLE n v) = v % 256 ^ n := by
  induction n generalizing v with
  | zero => simp [toLE, fromLE, Nat.mod_one]
  | succ n ih =>
    have hpow : 256 ^ (n + 1) = 256 * 256 ^ n := by rw [Nat.pow_succ, Nat.mul_comm]
    rw [toLE, fromLE, ih, BitVec.toNat_ofNat, hpow, Nat.mod_mul]

theorem lengthBytes_bounds (alg : Alg) (cfg : Config) :
    8 ≤ alg.lengthBytes cfg ∧ alg.lengthBytes cfg ≤ 16 ∧ alg.lengthBytes cfg ≤ alg.blockBytes := by
  have hb := blockBytes_cases alg
  unfold Alg.lengthBytes
  split <;> omega

/-- A memory read whose bytes are known one by one. -/
theorem memRead_eq_list {s : State} {a : Nat} {l : List Byte}
    (h : ∀ j, j < l.length → s.readByte (a + j) = l.getD j 0) : s.memRead a l.length = l := by
  apply List.ext_getElem
  · simp
  · intro j h1 h2
    rw [getElem_memRead, h j h2, List.getD_eq_getElem _ _ h2]

theorem pad_wf {s : State} (h : s.BlockWf) (ho : s.off < s.alg.blockBytes) : s.pad.BlockWf := by
  have := blockBytes_le s.alg
  exact (h.writeByte (by omega) _).memWrite (by simp; omega)

/-- The message tail, the marker and the zeros (R111). -/
theorem readByte_pad {s : State} (h : s.BlockWf) (ho : s.off < s.alg.blockBytes) {a : Nat} (ha : a < s.alg.blockBytes) :
    s.pad.readByte a = if a < s.off then s.readByte a else if a = s.off then 0x80 else 0 := by
  have := blockBytes_le s.alg
  unfold State.pad
  rw [readByte_memWrite (h.writeByte (by omega) _) (by simp; omega), readByte_writeByte h]
  simp only [List.length_replicate]
  split
  · rw [if_neg (by omega), if_neg (by omega), List.getD_eq_getElem _ _ (by simp; omega)]
    simp
  · split
    · rw [if_neg (by omega)]
    · rw [if_pos (by omega)]

theorem setMsgSize_wf {s : State} (h : s.BlockWf) (bits : Nat) : (s.setMsgSize bits).BlockWf := by
  have := blockBytes_le s.alg
  have := lengthBytes_bounds s.alg s.cfg
  exact h.memWrite (by rw [length_toBytes]; omega)

/-- The length field in the last F bytes, and nothing else (R138). -/
theorem readByte_setMsgSize {s : State} (h : s.BlockWf) (bits : Nat) {a : Nat} (ha : a < s.alg.blockBytes) :
    (s.setMsgSize bits).readByte a =
      if a < s.alg.blockBytes - s.alg.lengthBytes s.cfg then s.readByte a
      else (toBytes s.alg.byteOrder (s.alg.lengthBytes s.cfg) (bits % 2 ^ (8 * s.alg.lengthBytes s.cfg))).getD
        (a - (s.alg.blockBytes - s.alg.lengthBytes s.cfg)) 0 := by
  have := blockBytes_le s.alg
  have := lengthBytes_bounds s.alg s.cfg
  unfold State.setMsgSize
  simp only []
  rw [readByte_memWrite h (by rw [length_toBytes]; omega), length_toBytes]
  split
  · rw [if_neg (by omega)]
  · rw [if_pos (by omega)]

/-- The two paths of FINAL (R113, R114). -/
theorem padAndCompress_of_room {s : State} (h : s.off + 1 + s.alg.lengthBytes s.cfg ≤ s.alg.blockBytes) :
    s.padAndCompress = (s.pad.setMsgSize (8 * s.mlen.toNat)).compress := by
  simp [State.padAndCompress, State.hasRoom, h]

theorem padAndCompress_of_no_room {s : State} (h : s.alg.blockBytes < s.off + 1 + s.alg.lengthBytes s.cfg) :
    s.padAndCompress = (s.pad.compress.setMsgSize (8 * s.mlen.toNat)).compress := by
  have : ¬ s.off + 1 + s.alg.lengthBytes s.cfg ≤ s.alg.blockBytes := by omega
  simp [State.padAndCompress, State.hasRoom, this]

/-- FINAL ends with a compression, which clears the Block (R108, R114). -/
theorem padAndCompress_block (s : State) :
    s.padAndCompress.BlockWf ∧ ∀ a, a < s.alg.blockBytes → s.padAndCompress.readByte a = 0 := by
  rcases Nat.lt_or_ge s.alg.blockBytes (s.off + 1 + s.alg.lengthBytes s.cfg) with h | h
  · rw [padAndCompress_of_no_room h]
    exact ⟨compress_wf _, fun a ha => readByte_compress _ (by simpa using ha)⟩
  · rw [padAndCompress_of_room h]
    exact ⟨compress_wf _, fun a ha => readByte_compress _ (by simpa using ha)⟩

@[simp] theorem chain_finish (s : State) : s.finish.chain = s.padAndCompress.chain := rfl

@[simp] theorem readByte_finish (s : State) (a : Nat) : s.finish.readByte a = s.padAndCompress.readByte a := rfl

/-- The response of FINAL is GET_DIGEST of the state it leaves (R115). -/
theorem finish_outbox (s : State) : s.finish.outbox = s.outbox ++ [.digest s.finish.getDigest] := by
  have h : s.finish.outbox = s.padAndCompress.outbox ++ [.digest s.finish.getDigest] := rfl
  rw [h, State.padAndCompress_outbox]

theorem length_wordBytes {w : Nat} (n : Nat) (ord : ByteOrder) (ws : List (BitVec w)) :
    (wordBytes n ord ws).length = ws.length * n := by
  simp [wordBytes, List.length_flatMap]

end Sys2Proof.Machine
end

