-- ==== Sys2Proof/Laws/Message.lean ====
section
/-! SUPPORT. The engine in the middle of a message, as a function of the bytes absorbed: the invariant of the byte loop of
UPDATE (spec/40_engine.md R105, R106). -/

namespace Sys2Proof.Machine

/-- The bytes of the last, unfinished Block of a byte sequence. -/
def blockTail (b : Nat) (bytes : List Byte) : List Byte := bytes.drop (b * (bytes.length / b))

theorem length_blockTail {b : Nat} (bytes : List Byte) : (blockTail b bytes).length = bytes.length % b := by
  have := Nat.div_add_mod bytes.length b
  simp only [blockTail, List.length_drop]
  omega

/-- A byte sequence of whole Blocks followed by less than one Block. -/
theorem length_append_one_div {b : Nat} (hb : 0 < b) (n : Nat) :
    (n + 1) / b = if n % b + 1 = b then n / b + 1 else n / b := by
  have h1 := Nat.div_add_mod n b
  have h2 := Nat.mod_lt n hb
  split
  · rename_i h
    have : n + 1 = b * (n / b + 1) := by rw [Nat.mul_add]; omega
    rw [this, Nat.mul_div_cancel_left _ hb]
  · rename_i h
    have : (b * (n / b) + (n % b + 1)) / b = n / b := by
      rw [Nat.mul_add_div hb, Nat.div_eq_of_lt (a := n % b + 1) (by omega)]
      rfl
    have e : b * (n / b) + (n % b + 1) = n + 1 := by omega
    rwa [e] at this

theorem blockTail_concat {b : Nat} (hb : 0 < b) (bytes : List Byte) (x : Byte) :
    blockTail b (bytes ++ [x]) = if bytes.length % b + 1 = b then [] else blockTail b bytes ++ [x] := by
  have h1 := Nat.div_add_mod bytes.length b
  unfold blockTail
  rw [List.length_append, List.length_singleton, length_append_one_div hb]
  split
  · rename_i h
    apply List.drop_eq_nil_of_le
    rw [List.length_append, List.length_singleton, Nat.mul_add]
    omega
  · rw [List.drop_append_of_le_length (by omega)]

/-- Whole Blocks are untouched by what follows them. -/
theorem processBlocks_eq_of_prefix {alg : Alg} {h : Chain} {xs ys : List Byte}
    (hd : (xs ++ ys).length / alg.blockBytes = xs.length / alg.blockBytes) :
    processBlocks alg h (xs ++ ys) = processBlocks alg h xs := by
  have hB := blockBytes_pos alg
  unfold processBlocks
  rw [hd]
  have key : ∀ n, n ≤ xs.length / alg.blockBytes →
      (List.range n).foldl (fun h j => process alg h (((xs ++ ys).drop (alg.blockBytes * j)).take alg.blockBytes)) h =
      (List.range n).foldl (fun h j => process alg h ((xs.drop (alg.blockBytes * j)).take alg.blockBytes)) h := by
    intro n
    induction n with
    | zero => intro _; simp
    | succ n ih =>
      intro hn
      rw [List.range_succ, List.foldl_append, List.foldl_append, ih (by omega)]
      simp only [List.foldl_cons, List.foldl_nil]
      refine congrArg (process alg _) ?_
      have h1 : alg.blockBytes * (n + 1) ≤ xs.length :=
        Nat.le_trans (Nat.mul_le_mul_left _ hn) (Nat.mul_div_le _ _)
      rw [Nat.mul_add, Nat.mul_one] at h1
      rw [List.drop_append_of_le_length (by omega), List.take_append_of_le_length (by simp; omega)]
  exact key _ (Nat.le_refl _)

/-- One more byte: one more PROCESS when it completes a Block, of that Block. -/
theorem processBlocks_concat (alg : Alg) (h : Chain) (bytes : List Byte) (x : Byte) :
    processBlocks alg h (bytes ++ [x]) =
      if bytes.length % alg.blockBytes + 1 = alg.blockBytes then
        process alg (processBlocks alg h bytes) (blockTail alg.blockBytes bytes ++ [x])
      else processBlocks alg h bytes := by
  have hB := blockBytes_pos alg
  have hdiv := length_append_one_div hB bytes.length
  have hdm := Nat.div_add_mod bytes.length alg.blockBytes
  split
  · rename_i hf
    rw [if_pos hf] at hdiv
    have hpre : processBlocks alg h (bytes ++ [x]) =
        process alg ((List.range (bytes.length / alg.blockBytes)).foldl
          (fun h j => process alg h (((bytes ++ [x]).drop (alg.blockBytes * j)).take alg.blockBytes)) h)
          (((bytes ++ [x]).drop (alg.blockBytes * (bytes.length / alg.blockBytes))).take alg.blockBytes) := by
      unfold processBlocks
      rw [List.length_append, List.length_singleton, hdiv, List.range_succ, List.foldl_append]
      rfl
    rw [hpre, List.drop_append_of_le_length (by omega), List.take_of_length_le (by simp; omega)]
    refine congrArg (fun c => process alg c _) ?_
    unfold processBlocks
    apply List.foldl_ext
    intro c j hj
    have hj := List.mem_range.mp hj
    refine congrArg (process alg c) ?_
    have h1 : alg.blockBytes * (j + 1) ≤ bytes.length :=
      Nat.le_trans (Nat.mul_le_mul_left _ hj) (by omega)
    rw [Nat.mul_add, Nat.mul_one] at h1
    rw [List.drop_append_of_le_length (by omega), List.take_append_of_le_length (by simp; omega)]
  · rename_i hf
    rw [if_neg hf] at hdiv
    exact processBlocks_eq_of_prefix (by simpa using hdiv)

/-- The engine has absorbed `bytes`, counted from a Block boundary with ChainingState `h`. -/
structure State.Holds (s : State) (h : Chain) (bytes : List Byte) : Prop where
  wf : s.BlockWf
  off_eq : s.off = bytes.length % s.alg.blockBytes
  chain_eq : s.chain = processBlocks s.alg h bytes
  block_eq : ∀ a, a < s.alg.blockBytes → s.readByte a = (blockTail s.alg.blockBytes bytes).getD a 0

theorem State.Holds.absorbing {s : State} {h : Chain} {bytes : List Byte} (hs : s.Holds h bytes) : s.Absorbing :=
  ⟨hs.wf, hs.off_eq ▸ Nat.mod_lt _ (blockBytes_pos _)⟩

/-- The bytes below OFF are the unfinished Block. -/
theorem State.Holds.memRead_off {s : State} {h : Chain} {bytes : List Byte} (hs : s.Holds h bytes) :
    s.memRead 0 s.off = blockTail s.alg.blockBytes bytes := by
  apply List.ext_getElem
  · rw [length_memRead, length_blockTail, hs.off_eq]
  · intro j h1 h2
    have hj : j < s.alg.blockBytes := by
      rw [length_memRead] at h1
      have := hs.absorbing.off_lt
      omega
    rw [getElem_memRead, Nat.zero_add, hs.block_eq j hj, List.getD_eq_getElem _ _ h2]

/-- One byte of the loop (R105, R106). -/
theorem State.Holds.absorbByte {s : State} {h : Chain} {bytes : List Byte} (hs : s.Holds h bytes) (x : Byte) :
    (s.absorbByte x).Holds h (bytes ++ [x]) := by
  have hB := blockBytes_pos s.alg
  have ho := hs.absorbing.off_lt
  refine ⟨(hs.absorbing.absorbByte x).wf, ?_, ?_, ?_⟩
  · rw [absorbByte_off ho, State.absorbByte_alg, hs.off_eq, Nat.mod_add_mod, List.length_append, List.length_singleton]
  · rw [chain_absorbByte hs.absorbing, State.absorbByte_alg, processBlocks_concat, hs.memRead_off, ← hs.off_eq,
      hs.chain_eq]
  · intro a ha
    rw [State.absorbByte_alg] at ha ⊢
    rw [readByte_absorbByte hs.absorbing x ha, blockTail_concat hB, ← hs.off_eq]
    split
    · rfl
    · have hl : (blockTail s.alg.blockBytes bytes).length = s.off := by rw [length_blockTail, hs.off_eq]
      split
      · rename_i hao
        rw [hao, List.getD_append_right _ _ _ _ (by omega), hl]
        simp
      · rename_i hao
        rw [hs.block_eq a ha]
        by_cases hlt : a < s.off
        · rw [List.getD_append _ _ _ _ (by omega)]
        · rw [List.getD_eq_default _ _ (by omega), List.getD_eq_default]
          rw [List.length_append, hl, List.length_singleton]
          omega

/-- A whole UPDATE (R105, R106). -/
theorem State.Holds.absorb {s : State} {h : Chain} {bytes : List Byte} (hs : s.Holds h bytes) (data : List Byte) :
    (s.absorb data).Holds h (bytes ++ data) := by
  induction data generalizing s bytes with
  | nil => rwa [List.append_nil]
  | cons x xs ih =>
    rw [absorb_cons, List.append_cons]
    exact ih (hs.absorbByte x)

/-- A new message has absorbed nothing (R101, R102). -/
theorem initialise_holds (s : State) (alg : Alg) : (s.initialise alg).Holds alg.iv [] := by
  refine ⟨initialise_wf s alg, by simp, ?_, ?_⟩
  · simp [processBlocks]
  · intro a ha
    rw [State.initialise_alg] at ha
    rw [readByte_initialise s ha]
    simp [blockTail]

end Sys2Proof.Machine
end

