-- ==== Sys2Proof/Laws/PerInstr.lean ====
section
/-! SUPPORT. Facts about every command as syntax, one lemma per constructor. -/

namespace Sys2Proof.Laws.EncodedHeader

/-- The header word of a command's encoding is the one the opcode table gives it: RSVD is 0 (R81), the decoder reads it as
a legal header (R87), and LEN is present exactly where that header is UPDATE's (R84, R85). -/
def Statement (i : Instr) : Prop :=
  rsvdField (encode i).cmd = 0 ∧ (decodeHeader (encode i).cmd).isSome = true ∧
  ((encode i).len.isSome = true ↔ decodeHeader (encode i).cmd = some .update)

theorem initMD4 : Statement .initMD4 := by unfold Statement; decide
theorem initMD5 : Statement .initMD5 := by unfold Statement; decide
theorem initSHA1 : Statement .initSHA1 := by unfold Statement; decide
theorem initSHA224 : Statement .initSHA224 := by unfold Statement; decide
theorem initSHA256 : Statement .initSHA256 := by unfold Statement; decide
theorem initSHA384 : Statement .initSHA384 := by unfold Statement; decide
theorem initSHA512 : Statement .initSHA512 := by unfold Statement; decide
theorem reset : Statement .reset := by unfold Statement; decide
theorem update (data : List Byte) : Statement (.update data) := by
  have hr : rsvdField 0x30000000#32 = 0 := by decide
  have hd : decodeHeader 0x30000000#32 = some .update := by decide
  exact ⟨hr, congrArg Option.isSome hd, fun _ => hd, fun _ => rfl⟩
theorem final : Statement .final := by unfold Statement; decide

end Sys2Proof.Laws.EncodedHeader
end

