-- ==== Sys2Proof/Tests/Slice0.lean ====
section
/-! SUPPORT. Tests. Expected values are those of spec/95_test_vectors.md (section named at each test), of the rules cited, or
worked out by hand from them. After them, for every statement with hypotheses, states and operands that meet them. -/

namespace Sys2Proof.Tests

open Sys2Proof Sys2Proof.Machine Sys2Proof.Statements

/-! ### Small states -/

/-- A state in READY with a given ChainingState and the bytes `bytes` at the bottom of the Block. -/
def ready (alg : Alg) (iv : Chain) (bytes : List Byte) (mlen : Nat) (lf : LenField64) : State :=
  { ((((State.reset.setAlg alg).setChain iv).memWrite 0 bytes).setOff bytes.length).setMlen mlen with
    life := .ready, cfg := { lenField64 := lf } }

/-- A state with nothing in the Block. -/
def plain (life : Life) (alg : Alg) (off mlen : Nat) (lf : LenField64) : State :=
  { (State.reset.setAlg alg).setMlen mlen with life := life, off := off, cfg := { lenField64 := lf } }

/-- A property of the next state of an outcome. -/
def nextHas (o : Host.Outcome State Fault Refusal) (p : State → Bool) : Bool :=
  match o with
  | .next s => p s
  | _ => false

/-- The outcome is this fault. -/
def faultsWith (o : Host.Outcome State Fault Refusal) (f : Fault) : Bool :=
  match o with
  | .fault g => decide (g = f)
  | _ => false

/-- The outcome is this refusal. -/
def refusesWith (o : Host.Outcome State Fault Refusal) (r : Refusal) : Bool :=
  match o with
  | .refused q => decide (q = r)
  | _ => false

/-- The digest a step answers, as one number, first byte most significant. -/
def digestNumber (o : Host.Outcome State Fault Refusal) : Option Nat :=
  match o with
  | .next s =>
    match s.outbox with
    | [.digest d] => some (fromBE d)
    | _ => none
  | _ => none

/-- The bytes of an ASCII text. -/
def ascii (s : String) : List Byte := s.toList.map fun c => BitVec.ofNat 8 c.toNat

/-! ### Syntax and encoding -/

/-- R84: 2^64 bytes do not fit LEN. -/
theorem test_wellFormed_update_too_long : Instr.wellFormed (.update (List.replicate (2 ^ 64) 0)) = false := by
  simp only [Instr.wellFormed, List.length_replicate]; decide

/-- R84: 2^64 - 1 bytes do. -/
theorem test_wellFormed_update_longest : Instr.wellFormed (.update (List.replicate (2 ^ 64 - 1) 0)) = true := by
  simp only [Instr.wellFormed, List.length_replicate]; decide

/-! Words written out from R81 to R83: OP in bits 31:28, ALG in bits 27:24, RSVD in bits 23:0. -/

theorem test_decode_initMD4 : decodeTableWord 32 0b00010000000000000000000000000000 = some .initMD4 := by decide
theorem test_decode_initMD5 : decodeTableWord 32 0b00010001000000000000000000000000 = some .initMD5 := by decide
theorem test_decode_initSHA1 : decodeTableWord 32 0b00010010000000000000000000000000 = some .initSHA1 := by decide
theorem test_decode_initSHA224 : decodeTableWord 32 0b00010011000000000000000000000000 = some .initSHA224 := by decide
theorem test_decode_initSHA256 : decodeTableWord 32 0b00010100000000000000000000000000 = some .initSHA256 := by decide
theorem test_decode_initSHA384 : decodeTableWord 32 0b00010101000000000000000000000000 = some .initSHA384 := by decide
theorem test_decode_initSHA512 : decodeTableWord 32 0b00010110000000000000000000000000 = some .initSHA512 := by decide
theorem test_decode_reset : decodeTableWord 32 0b00100000000000000000000000000000 = some .reset := by decide
theorem test_decode_update : decodeTableWord 32 0b00110000000000000000000000000000 = some (.update []) := by decide
theorem test_decode_final : decodeTableWord 32 0b01000000000000000000000000000000 = some .final := by decide

/-- Section 6, the reserved headers. -/
theorem test_decode_reserved :
    [0x17000000, 0x1f000000, 0x21000000, 0x30000001, 0x00000000, 0x50000000, 0xf6000000].all
      (fun w => decodeTableWord 32 w = none) = true := by decide

/-- Section 7, P1, command 3: `UPDATE "bc"`, with LEN and data numbered from the header up. -/
theorem test_decode_update_operands :
    decodeTableWord 112 (0x30000000 + 2 * 2 ^ 32 + 0x62 * 2 ^ 96 + 0x63 * 2 ^ 104) = some (.update [0x62, 0x63]) := by
  decide

/-- R309: LEN says three bytes and two came. -/
theorem test_decode_length_mismatch :
    refusesWith (step { State.reset with inbox := [⟨0x30000000#32, some 3#64, [0x62, 0x63]⟩] }) .frLenMismatch = true := by
  decide

/-- R91, R92: the three operand forms, a comment, and a name in the wrong case. -/
theorem test_assemble_lines :
    assembleLine "UPDATE \"bc\"  ; two bytes".toList = some [.update [0x62, 0x63]] ∧
    assembleLine "UPDATE rep:3x61".toList = some [.update [0x61, 0x61, 0x61]] ∧
    assembleLine "HASH.SHA1 hex:00Ff".toList = some [.initSHA1, .update [0x00, 0xff], .final] ∧
    assembleLine "INIT.SHA224".toList = some [.initSHA224] ∧
    assembleLine "init.SHA224".toList = none := by decide

/-- R14. -/
theorem test_hexRender : hexRender [0x0f, 0xa9, 0x00] = "0fa900".toList := by decide

/-! ### Word units (section 5) -/

theorem test_rotl : rotl 0x80000001#32 33 = 0x00000003#32 ∧ rotl 0x12345678#32 28 = 0x81234567#32 ∧
    rotl 0x0123456789abcdef#64 65 = 0x02468acf13579bde#64 := by decide
theorem test_rotr : rotr 0x80000001#32 32 = 0x80000001#32 ∧ rotr 0x12345678#32 4 = 0x81234567#32 ∧
    rotr 0x0123456789abcdef#64 8 = 0xef0123456789abcd#64 := by decide
theorem test_shr : shr 0x80000000#32 3 = 0x10000000#32 ∧ shr 0x8000000000000000#64 7 = 0x0100000000000000#64 := by decide

/-! ### Memory -/

theorem test_memory_reset_wf : State.reset.blkLo.wf ∧ State.reset.blkHi.wf := by decide
theorem test_memory_write_zero : Memory.write [(3, 1), (5, 2)] 3 0 = [(5, 2)] := by decide
theorem test_memory_write_sorted : Memory.write [(3, 1), (5, 2)] 4 9 = [(3, 1), (4, 9), (5, 2)] := by decide

/-! ### One step of each command (section 6) -/

theorem test_initMD4 : nextHas (exec .initMD4 (plain .finalized .sha1 0 3 .ref8)) (fun t =>
    decide (t.life = .ready ∧ t.alg = .md4 ∧ t.mlen = 0 ∧
      t.chain = .w32 [0x67452301#32, 0xefcdab89#32, 0x98badcfe#32, 0x10325476#32])) = true := by decide
theorem test_initMD5 : nextHas (exec .initMD5 (plain .failed .sha512 9 9 .ref8)) (fun t =>
    decide (t.life = .ready ∧ t.alg = .md5 ∧ t.off = 0 ∧
      t.chain = .w32 [0x67452301#32, 0xefcdab89#32, 0x98badcfe#32, 0x10325476#32])) = true := by decide
theorem test_initSHA1 : nextHas (exec .initSHA1 (ready .sha512 Alg.sha512.iv [1, 2] 2 .ref8)) (fun t =>
    decide (t.life = .ready ∧ t.readByte 0 = 0 ∧ t.off = 0 ∧
      t.chain = .w32 [0x67452301#32, 0xefcdab89#32, 0x98badcfe#32, 0x10325476#32, 0xc3d2e1f0#32])) = true := by decide
theorem test_initSHA224 : nextHas (exec .initSHA224 State.reset) (fun t =>
    decide (t.life = .ready ∧ t.alg = .sha224 ∧ t.chain = .w32 [0xc1059ed8#32, 0x367cd507#32, 0x3070dd17#32,
      0xf70e5939#32, 0xffc00b31#32, 0x68581511#32, 0x64f98fa7#32, 0xbefa4fa4#32])) = true := by decide
theorem test_initSHA256 : nextHas (exec .initSHA256 State.reset) (fun t =>
    decide (t.life = .ready ∧ t.alg = .sha256 ∧ t.chain = .w32 [0x6a09e667#32, 0xbb67ae85#32, 0x3c6ef372#32,
      0xa54ff53a#32, 0x510e527f#32, 0x9b05688c#32, 0x1f83d9ab#32, 0x5be0cd19#32])) = true := by decide
theorem test_initSHA384 : nextHas (exec .initSHA384 State.reset) (fun t =>
    decide (t.life = .ready ∧ t.alg = .sha384 ∧ (chainWords64 t.chain).getD 7 0 = 0x47b5481dbefa4fa4#64)) = true := by
  decide
theorem test_initSHA512 : nextHas (exec .initSHA512 State.reset) (fun t =>
    decide (t.life = .ready ∧ t.alg = .sha512 ∧ (chainWords64 t.chain).getD 7 0 = 0x5be0cd19137e2179#64)) = true := by
  decide

/-- V16. -/
theorem test_reset_after_failure : nextHas (exec .reset (plain .failed .sha1 7 7 .ref8)) (fun t =>
    decide (t.life = .ready ∧ t.alg = .sha1 ∧ t.off = 0 ∧ t.mlen = 0 ∧
      t.chain = .w32 [0x67452301#32, 0xefcdab89#32, 0x98badcfe#32, 0x10325476#32, 0xc3d2e1f0#32])) = true := by decide

/-- V11. -/
theorem test_reset_unconfigured : faultsWith (exec .reset State.reset) .frNoAlg = true := by decide

/-- Section 4, SHA-1, with the last byte of the padded Block of "abc" arriving in an UPDATE of its own. -/
theorem test_update_completes_block :
    nextHas (exec (.update [0x18]) (ready .sha1 Alg.sha1.iv ([0x61, 0x62, 0x63, 0x80] ++ zeros 59) 63 .ref8)) (fun t =>
      decide (t.chain = .w32 [0xa9993e36#32, 0x4706816a#32, 0xba3e2571#32, 0x7850c26c#32, 0x9cd0d89d#32] ∧
        t.off = 0 ∧ t.mlen = 64 ∧ t.blkLo = [] ∧ t.outbox = [.result true])) = true := by decide +kernel

/-- V3. -/
theorem test_update_overflow :
    nextHas (exec (.update [0x00]) (plain .ready .sha256 0 (2 ^ 61) .ref8)) (fun t =>
      decide (t.life = .failed ∧ t.off = 0 ∧ t.blkLo = [] ∧ t.outbox = [.result false])) = true := by decide

/-- Section 1.2, the 112-byte message under FIPS16: two compressions, and the last 16 bytes of the ChainingState dropped. -/
theorem test_final_sha384_fips16 :
    digestNumber (exec .final (ready .sha384 Alg.sha384.iv (ascii ("abcdefghbcdefghicdefghijdefghijkefghijkl" ++
      "fghijklmghijklmnhijklmnoijklmnopjklmnopqklmnopqrlmnopqrsmnopqrstnopqrstu")) 112 .fips16)) =
    some 0x09330c33f71147e83d192fc782cd1b4753111b173b3b05d22fa08086e3b0f712fcc7c71a557e2db966c3e9fa91746039 := by
  decide +kernel

/-- V9: the stored length is 2^64 mod 2^64. -/
theorem test_final_md5_limit :
    digestNumber (exec .final (ready .md5 Alg.md5.iv [] (2 ^ 61) .ref8)) = some 0xd41d8cd98f00b204e9800998ecf8427e := by
  decide +kernel

/-- V12 to V15. -/
theorem test_lifecycle_faults :
    faultsWith (exec (.update [0x78]) (plain .finalized .sha1 0 0 .ref8)) .frUpdateAfterFinal = true ∧
    faultsWith (exec .final (plain .finalized .sha1 0 0 .ref8)) .frFinalAfterFinal = true ∧
    faultsWith (exec .final (plain .failed .sha1 0 0 .ref8)) .frUseAfterFail = true ∧
    faultsWith (exec (.update []) (plain .failed .sha1 0 0 .ref8)) .frUseAfterFail = true := by decide

/-- A program's first command after power-on, taken from where the host places it. -/
theorem test_step_first_command :
    nextHas (step (State.reset.withFetchWord 32 0x15000000)) (fun t =>
      decide (t.life = .ready ∧ t.alg = .sha384 ∧ t.inbox = [])) = true := by decide

/-! ### Hypotheses that are met

One theorem for every statement with hypotheses, at boundary values of each clause. -/

/-- An empty Block is well formed in every state. -/
theorem plain_blockWf (life : Life) (alg : Alg) (off mlen : Nat) (lf : LenField64) :
    (plain life alg off mlen lf).BlockWf := ⟨test_memory_reset_wf.1, test_memory_reset_wf.2, nofun, nofun⟩

/-- READY with an empty Block meets the invariant wherever OFF and MLEN agree. -/
theorem plain_ready_inv (alg : Alg) (off mlen : Nat) (lf : LenField64) (ho : off < alg.blockBytes)
    (hm : mlen % alg.blockBytes = off) (hl : mlen ≤ 2 ^ 61) : (plain .ready alg off mlen lf).Inv := by
  have hmlen : (plain .ready alg off mlen lf).mlen.toNat = mlen := by
    show (BitVec.ofNat 64 mlen).toNat = mlen
    rw [BitVec.toNat_ofNat, Nat.mod_eq_of_lt (by omega)]
  refine ⟨plain_blockWf _ alg off mlen lf, fun _ => ho, fun _ a _ _ => ?_, fun _ => ?_, fun _ => ?_, nofun, nofun⟩
  · show State.reset.readByte a = 0
    simp [State.readByte, State.reset, Memory.read]
  · rw [hmlen]; exact hm
  · rw [hmlen]; exact hl

/-- FINALIZED with an empty Block meets the invariant. -/
theorem plain_finalized_inv (alg : Alg) (lf : LenField64) : (plain .finalized alg 0 3 lf).Inv := by
  have hm : (3#64).toNat ≤ lengthLimit := by decide
  refine ⟨plain_blockWf _ alg 0 3 lf, nofun, nofun, nofun, fun _ => hm, fun _ => rfl, fun _ a _ => ?_⟩
  show State.reset.readByte a = 0
  simp [State.readByte, State.reset, Memory.read]

theorem hyp_HeaderLegalExactlyInTable :
    decodeHeader 0x17000000#32 = none ∧ decodeHeader 0x40000001#32 = none ∧
    ({ State.reset with inbox := [⟨0x17000000#32, some 1#64, []⟩] } : State).inbox = ⟨0x17000000#32, some 1#64, []⟩ :: [] := by
  decide

theorem hyp_DecodeEncodeInverse :
    Instr.wellFormed (.update (List.replicate (2 ^ 64 - 1) 0)) = true ∧ Instr.wellFormed .final = true ∧
    decode ⟨0x30000000#32, some 1#64, [7]⟩ = .ok (.update [7]) :=
  ⟨test_wellFormed_update_longest, rfl, by decide⟩

theorem hyp_MalformedUpdateRefused :
    ({ State.reset with inbox := [⟨0x30000000#32, some 1#64, []⟩] } : State).inbox = ⟨0x30000000#32, some 1#64, []⟩ :: [] ∧
    (1#64).toNat ≠ ([] : List Byte).length ∧ (0#64).toNat = ([] : List Byte).length ∧
    ({ State.reset with inbox := [⟨0x30000000#32, none, []⟩] } : State).inbox = ⟨0x30000000#32, none, []⟩ :: [] := by decide

theorem hyp_StepRunsDecodedCommand :
    ({ State.reset with inbox := [⟨0x20000000#32, none, []⟩] } : State).inbox = ⟨0x20000000#32, none, []⟩ :: [] ∧
    decode ⟨0x20000000#32, none, []⟩ = .ok .reset ∧ decodeTableWord 32 0x20000000 = some .reset := by decide

theorem hyp_IdleStepLosesNothing : State.reset.inbox = [] := rfl

theorem hyp_HexTextAssembles : ("MD4".toList, Alg.md4) ∈ algNames ∧ ("SHA512".toList, Alg.sha512) ∈ algNames := by decide

/-- For RotationFormulas, RotationLaws and RotationCornerCases: amounts on both sides of the clauses. -/
theorem hyp_Rotation :
    0 % 32 = 0 ∧ 32 % 32 = 0 ∧ 64 % 64 = 0 ∧ 1 % 32 ≠ 0 ∧ 31 % 32 ≠ 0 ∧ 33 % 32 ≠ 0 ∧ 63 % 64 ≠ 0 := by decide

/-- For RoundFunctionsBitwise, SigmaFunctionsBitwise and the three statements about compression steps: the last bits and steps. -/
theorem hyp_BitsAndSteps : 31 < 32 ∧ 63 < 64 ∧ 47 < 48 ∧ 79 < 80 ∧ 29 + 3 = 32 ∧ 28 + 3 < 32 := by decide

theorem hyp_MessageWordAssembly :
    15 < 16 ∧ (plain .ready .md4 0 0 .ref8).alg.wordBits = 32 ∧ (plain .ready .sha512 0 0 .ref8).alg.wordBits = 64 := by
  decide

theorem hyp_ScheduleRecurrences :
    (List.replicate 16 (1 : Word32)).length = 16 ∧ (List.replicate 16 (1 : Word64)).length = 16 ∧
    15 < 16 ∧ 16 ≤ 16 ∧ 63 < 64 ∧ 79 < 80 := by decide

theorem hyp_ResetIsInitOfCurrentAlg :
    (plain .failed .md4 0 0 .ref8).life ≠ .unconfigured ∧ (plain .finalized .md4 0 0 .ref8).life ≠ .unconfigured ∧
    (plain .ready .md4 0 0 .ref8).life ≠ .unconfigured ∧ State.reset.life = .unconfigured := by decide

/-- One byte from a full Block, and one byte from the length limit (V1). -/
theorem hyp_AcceptedUpdateAbsorbs :
    (plain .ready .sha256 63 (2 ^ 61 - 1) .ref8).Inv ∧ (plain .ready .sha256 63 (2 ^ 61 - 1) .ref8).life = .ready ∧
    (plain .ready .sha256 63 (2 ^ 61 - 1) .ref8).mlen.toNat + [(0 : Byte)].length ≤ 2 ^ 61 :=
  ⟨plain_ready_inv .sha256 63 _ .ref8 (by decide) (by decide) (by decide), rfl, by decide⟩

theorem hyp_OverflowRefusesUpdate :
    (plain .ready .sha256 0 (2 ^ 61) .ref8).life = .ready ∧
    2 ^ 61 < (plain .ready .sha256 0 (2 ^ 61) .ref8).mlen.toNat + [(0 : Byte)].length := by decide

theorem hyp_UpdateLengthCases :
    (plain .ready .sha256 0 (2 ^ 61) .ref8).life = .ready ∧ (plain .ready .sha256 0 (2 ^ 61) .ref8).mlen.toNat ≤ 2 ^ 61 ∧
    (plain .ready .sha256 63 (2 ^ 61 - 1) .ref8).off < Alg.sha256.blockBytes ∧
    (plain .ready .sha256 63 (2 ^ 61 - 1) .ref8).mlen.toNat + [(0 : Byte)].length = 2 ^ 61 ∧
    (plain .ready .sha256 0 (2 ^ 61) .ref8).mlen.toNat + [(0 : Byte)].length = 2 ^ 61 + 1 ∧
    2 ^ 61 < (List.replicate (2 ^ 61 + 1) (0 : Byte)).length := by
  refine ⟨rfl, by decide, by decide, by decide, by decide, ?_⟩
  rw [List.length_replicate]; decide

/-- On both sides of the room test, for each block size and both length fields. -/
theorem hyp_FinalPadsAndAnswers :
    (plain .ready .md5 55 55 .ref8).Inv ∧ 55 + 1 + Alg.md5.lengthBytes ⟨.ref8⟩ ≤ Alg.md5.blockBytes ∧
    (plain .ready .md5 56 56 .ref8).Inv ∧ Alg.md5.blockBytes < 56 + 1 + Alg.md5.lengthBytes ⟨.ref8⟩ ∧
    (plain .ready .sha512 119 119 .ref8).Inv ∧ 119 + 1 + Alg.sha512.lengthBytes ⟨.ref8⟩ ≤ Alg.sha512.blockBytes ∧
    (plain .ready .sha512 127 127 .ref8).Inv ∧ Alg.sha512.blockBytes < 127 + 1 + Alg.sha512.lengthBytes ⟨.ref8⟩ ∧
    (plain .ready .sha512 111 111 .fips16).Inv ∧ 111 + 1 + Alg.sha512.lengthBytes ⟨.fips16⟩ ≤ Alg.sha512.blockBytes ∧
    (plain .ready .sha512 112 112 .fips16).Inv ∧ Alg.sha512.blockBytes < 112 + 1 + Alg.sha512.lengthBytes ⟨.fips16⟩ :=
  ⟨plain_ready_inv .md5 55 55 .ref8 (by decide) (by decide) (by decide), by decide,
   plain_ready_inv .md5 56 56 .ref8 (by decide) (by decide) (by decide), by decide,
   plain_ready_inv .sha512 119 119 .ref8 (by decide) (by decide) (by decide), by decide,
   plain_ready_inv .sha512 127 127 .ref8 (by decide) (by decide) (by decide), by decide,
   plain_ready_inv .sha512 111 111 .fips16 (by decide) (by decide) (by decide), by decide,
   plain_ready_inv .sha512 112 112 .fips16 (by decide) (by decide) (by decide), by decide⟩

theorem hyp_RoomTestTable :
    (plain .ready .md4 0 0 .ref8).alg.wordBits = 32 ∧ (plain .ready .sha384 0 0 .ref8).alg.wordBits = 64 ∧
    (plain .ready .sha384 0 0 .ref8).cfg.lenField64 = .ref8 ∧ (plain .ready .sha384 0 0 .fips16).cfg.lenField64 = .fips16 := by
  decide

/-- For LengthFieldBytes and LengthFieldWords: empty Blocks, the padded Block that FINAL's one-compression path hands to
SET_MSG_SIZE (R113), at the last OFF with room, and the cleared one of the other path (R114). -/
theorem hyp_LengthField :
    (plain .ready .md4 0 0 .ref8).BlockWf ∧ Alg.md4.byteOrder = .little ∧
    (plain .ready .sha1 0 0 .ref8).BlockWf ∧ Alg.sha1.byteOrder = .big ∧
    (plain .ready .md5 55 55 .ref8).pad.BlockWf ∧ (plain .ready .sha512 111 111 .fips16).pad.BlockWf ∧
    (plain .ready .sha384 119 119 .ref8).pad.BlockWf ∧ (plain .ready .sha512 127 127 .ref8).pad.compress.BlockWf ∧
    (plain .ready .sha384 119 119 .ref8).alg = .sha384 ∧ (plain .ready .sha384 119 119 .ref8).cfg.lenField64 = .ref8 ∧
    (plain .ready .sha512 111 111 .fips16).cfg.lenField64 = .fips16 ∧
    7 < Alg.md4.lengthBytes ⟨.fips16⟩ ∧ 15 < Alg.sha512.lengthBytes ⟨.fips16⟩ :=
  ⟨plain_blockWf .ready .md4 0 0 .ref8, rfl, plain_blockWf .ready .sha1 0 0 .ref8, rfl,
   pad_wf (plain_blockWf .ready .md5 55 55 .ref8) (by decide),
   pad_wf (plain_blockWf .ready .sha512 111 111 .fips16) (by decide),
   pad_wf (plain_blockWf .ready .sha384 119 119 .ref8) (by decide),
   compress_wf _, rfl, rfl, rfl, by decide, by decide⟩

theorem hyp_DigestBytes :
    15 < (plain .ready .md4 0 0 .ref8).alg.digestBytes ∧ (plain .ready .md4 0 0 .ref8).alg.byteOrder = .little ∧
    27 < (plain .ready .sha224 0 0 .ref8).alg.digestBytes ∧ (plain .ready .sha224 0 0 .ref8).alg.byteOrder = .big ∧
    (plain .ready .sha224 0 0 .ref8).alg.wordBits = 32 ∧
    47 < (plain .ready .sha384 0 0 .ref8).alg.digestBytes ∧ (plain .ready .sha384 0 0 .ref8).alg.wordBits = 64 := by decide

theorem hyp_LifecycleTable :
    State.reset.life = .unconfigured ∧ (plain .ready .md4 63 63 .ref8).life = .ready ∧
    (plain .ready .md4 63 63 .ref8).off < Alg.md4.blockBytes ∧ (plain .finalized .md4 0 3 .ref8).life = .finalized ∧
    (plain .failed .md4 0 0 .ref8).life = .failed := by decide

/-- For CommandsRunExactlyWhereDefined: states with the invariant where a command is defined and where it is not. -/
theorem hyp_CommandsRunExactlyWhereDefined :
    (plain .ready .md4 63 63 .ref8).Inv ∧ Life.allows .ready .final = true ∧
    (plain .finalized .md4 0 3 .ref8).Inv ∧ Life.allows .finalized .final = false ∧
    Life.allows .finalized .reset = true :=
  ⟨plain_ready_inv .md4 63 63 .ref8 (by decide) (by decide) (by decide), rfl, plain_finalized_inv .md4 .ref8, rfl, rfl⟩

/-- For OnlyOverflowFails, RegistersWrittenOnlyAsSpecified and OneResponsePerCommand, a next state of a command of every
kind: an INIT (from power-on), a RESET, an accepted and a refused UPDATE, and a FINAL. -/
theorem hyp_exec_next :
    nextHas (exec .initMD4 State.reset) (fun _ => true) = true ∧
    nextHas (exec .reset (plain .failed .md4 0 0 .ref8)) (fun _ => true) = true ∧
    nextHas (exec (.update [1]) (plain .ready .md4 0 0 .ref8)) (fun t => decide (t.life = .ready)) = true ∧
    nextHas (exec (.update [1]) (plain .ready .md4 0 (2 ^ 61) .ref8)) (fun t => decide (t.life = .failed)) = true ∧
    nextHas (exec .final (plain .ready .md4 0 0 .ref8)) (fun _ => true) = true := by
  refine ⟨by decide, by decide, by decide, by decide, by decide +kernel⟩

/-- States with the invariant that take a step, in READY and in FINALIZED. -/
theorem hyp_StepKeepsInvariant :
    (∃ t, ({ plain .ready .md5 63 127 .ref8 with inbox := [encode .reset] } : State).Inv ∧
      step { plain .ready .md5 63 127 .ref8 with inbox := [encode .reset] } = .next t) ∧
    (∃ t, ({ plain .finalized .md5 0 3 .ref8 with inbox := [encode .initSHA512] } : State).Inv ∧
      step { plain .finalized .md5 0 3 .ref8 with inbox := [encode .initSHA512] } = .next t) := by
  have hr := plain_ready_inv .md5 63 127 .ref8 (by decide) (by decide) (by decide)
  have hf := plain_finalized_inv .md5 .ref8
  exact ⟨⟨_, ⟨hr.toBlockWf.congr rfl rfl, hr.off_lt, hr.tail_zero, hr.mlen_mod, hr.mlen_le,
      hr.final_off, hr.final_zero⟩, rfl⟩,
    ⟨_, ⟨hf.toBlockWf.congr rfl rfl, hf.off_lt, hf.tail_zero, hf.mlen_mod, hf.mlen_le,
      hf.final_off, hf.final_zero⟩, rfl⟩⟩

/-- For ReachableStatesKeepInvariant and NoRunLeavesTheBlock. -/
theorem hyp_Reachable :
    Reachable State.reset ∧ Reachable { State.reset with inbox := [encode .initMD5] } ∧
    ∃ t, Reachable t ∧ t.life = .ready := by
  have h0 : Reachable State.reset := Reachable.powerOn ⟨.ref8⟩
  have h1 : Reachable { State.reset with inbox := [encode .initMD5] } := Reachable.issue State.reset (encode .initMD5) h0
  exact ⟨h0, h1, _, Reachable.step _ _ h1 rfl, rfl⟩

/-- For StreamingEquivalence and EngineComputesReferenceDigest: three chunks, one of them empty. -/
theorem hyp_StreamingEquivalence : ([[0x61], [], [0x62, 0x63]] : List (List Byte)).flatten.length ≤ 2 ^ 61 := by decide

/-- Two different states that no host can tell apart: in FINALIZED with another MLEN, in READY with another byte above B. -/
theorem hyp_UnspecifiedValuesHaveNoEffect :
    SameToHost (plain .unconfigured .md4 0 0 .ref8) (plain .unconfigured .sha512 5 9 .ref8) ∧
    plain .unconfigured .md4 0 0 .ref8 ≠ plain .unconfigured .sha512 5 9 .ref8 ∧
    (plain .ready .md4 0 0 .ref8).Inv ∧ ({ plain .ready .md4 0 0 .ref8 with blkHi := [(64, 1)] } : State).Inv ∧
    SameToHost (plain .ready .md4 0 0 .ref8) { plain .ready .md4 0 0 .ref8 with blkHi := [(64, 1)] } := by
  have hi := plain_ready_inv .md4 0 0 .ref8 (by decide) (by decide) (by decide)
  have hb (a : Nat) (ha : a < 64) :
      ({ plain .ready .md4 0 0 .ref8 with blkHi := [(64, 1)] } : State).readByte a = (plain .ready .md4 0 0 .ref8).readByte a := by
    simp [State.readByte, ha]
  refine ⟨⟨rfl, rfl, rfl, rfl, nofun, nofun, nofun, nofun, nofun⟩, by decide, hi,
    ⟨⟨hi.lo_wf, by decide, hi.lo_range, by decide⟩, hi.off_lt, fun h a h1 h2 => ?_, hi.mlen_mod, hi.mlen_le, nofun, nofun⟩,
    ⟨rfl, rfl, rfl, rfl, fun _ => rfl, fun _ => rfl, fun _ a ha => (hb a ha).symm, fun _ => rfl, fun _ => rfl⟩⟩
  rw [hb a h2]
  exact hi.tail_zero h a h1 h2

end Sys2Proof.Tests
end

/-! PROOFS of O7 and O8. What the text functions of Machine/Assembly.lean answer on the hex form of R14, one lemma per
function, and from them the round trip of R91 and R92; and the table of R6. -/

namespace Sys2Proof.Machine

/-- R14, R91: reading a rendered digit gives its number back. -/
theorem hexDigit?_hexChar : ∀ n < 16, hexDigit? (hexChar n) = some n := by decide

theorem hexRender_cons (b : Byte) (bs : List Byte) :
    hexRender (b :: bs) = hexChar (b.toNat / 16) :: hexChar (b.toNat % 16) :: hexRender bs := rfl

/-- Two hex digits are read as one byte, the high digit first. -/
theorem hexBytes_digits {c d : Char} {hi lo : Nat} (hc : hexDigit? c = some hi) (hd : hexDigit? d = some lo)
    (cs : List Char) :
    hexBytes (c :: d :: cs) = (hexBytes cs).map fun p => (BitVec.ofNat 8 (16 * hi + lo) :: p.1, p.2) := by
  simp [hexBytes, hc, hd]

/-- The hex reader undoes the rendering of R14 and leaves nothing of it. -/
theorem hexBytes_hexRender (bs : List Byte) : hexBytes (hexRender bs) = some (bs, []) := by
  induction bs with
  | nil => rfl
  | cons b bs ih =>
    have hhi := hexDigit?_hexChar (b.toNat / 16) (by omega)
    have hlo := hexDigit?_hexChar (b.toNat % 16) (by omega)
    rw [hexRender_cons, hexBytes_digits hhi hlo, ih, Nat.div_add_mod, BitVec.ofNat_toNat, BitVec.setWidth_eq]
    rfl

theorem afterWord_append (word cs : List Char) : afterWord word (word ++ cs) = some cs := by
  induction word with
  | nil => rfl
  | cons w ws ih => simpa [afterWord] using ih

/-- The operand form `hex:` hands the rest of the line to the hex reader. -/
theorem dataOperand_hex (cs : List Char) : dataOperand ("hex:".toList ++ cs) = hexBytes cs := by
  have hquote : afterWord ['"'] ("hex:".toList ++ cs) = none := rfl
  simp only [dataOperand, hquote, afterWord_append]

/-- A mnemonic with a data operand takes the hex form of every byte sequence. -/
theorem withData_hex (data : List Byte) (f : List Byte → List Instr) :
    withData (' ' :: ("hex:".toList ++ hexRender data)) f = some (f data) := by
  have hskip : skipSpaces (' ' :: ("hex:".toList ++ hexRender data)) = "hex:".toList ++ hexRender data := by
    simp [skipSpaces]
  have hend : lineEnds [] = true := rfl
  simp only [withData, hskip, dataOperand_hex, hexBytes_hexRender, hend, if_true]

/-- The first word of a line, after the leading spaces, ends at the first space behind it. -/
theorem firstWord_skipSpaces_append_space {word : List Char} (hne : word ≠ [])
    (hword : ∀ c ∈ word, c ≠ ' ' ∧ c ≠ ';') (cs : List Char) :
    firstWord (skipSpaces (word ++ ' ' :: cs)) = (word, ' ' :: cs) := by
  have hskip : skipSpaces (word ++ ' ' :: cs) = word ++ ' ' :: cs := by
    obtain ⟨w, ws, rfl⟩ := List.exists_cons_of_ne_nil hne
    have hw : w ≠ ' ' := (hword w List.mem_cons_self).1
    simp [skipSpaces, hw]
  have hall : ∀ c ∈ word, decide (c ≠ ' ' ∧ c ≠ ';') = true := fun c hc => decide_eq_true (hword c hc)
  rw [hskip, firstWord, List.span_eq_takeWhile_dropWhile, List.takeWhile_append_of_pos hall,
    List.dropWhile_append_of_pos hall]
  simp

/-- R91: no algorithm name holds a character that ends a word. -/
theorem algNames_word : ∀ p ∈ algNames, ∀ c ∈ p.1, c ≠ ' ' ∧ c ≠ ';' := by
  simp [algNames]

/-- R91: each name is the name of its own algorithm. -/
theorem algNamed_of_mem : ∀ p ∈ algNames, algNamed p.1 = some p.2 := by decide

/-- R91: after the word UPDATE the line is its data operand. -/
theorem assembleLine_update (cs : List Char) :
    assembleLine ("UPDATE".toList ++ ' ' :: cs) = withData (' ' :: cs) fun data => [.update data] := by
  rw [assembleLine, firstWord_skipSpaces_append_space (by simp) (by simp)]
  rfl

/-- R92: after the word HASH.<alg> the line is the data operand of its three commands. -/
theorem assembleLine_hash {name : List Char} {alg : Alg} (hname : (name, alg) ∈ algNames) (cs : List Char) :
    assembleLine ("HASH.".toList ++ name ++ ' ' :: cs) = withData (' ' :: cs) (hashCommands alg) := by
  have hword : ∀ c ∈ "HASH.".toList ++ name, c ≠ ' ' ∧ c ≠ ';' :=
    List.forall_mem_append.2 ⟨by simp, algNames_word _ hname⟩
  have halg : algNamed name = some alg := algNamed_of_mem _ hname
  rw [assembleLine, firstWord_skipSpaces_append_space (by simp) hword]
  simp [afterWord, halg]

/-- Settles O7: the line's first word is split off, and the hex reader gives the rendered bytes back. -/
theorem hexTextAssembles : Obligations.HexTextAssembles := by
  refine ⟨fun data => ?_, fun name alg data hname => ?_⟩
  · exact (assembleLine_update _).trans (withData_hex data _)
  · have hline : "HASH.".toList ++ name ++ " hex:".toList ++ hexRender data =
        "HASH.".toList ++ name ++ ' ' :: ("hex:".toList ++ hexRender data) := by
      simp
    rw [hline, assembleLine_hash hname, withData_hex]
    rfl

/-- Settles O8: both sides are the same closed table, R6 row by row. -/
theorem parameterTable : Obligations.ParameterTable := rfl

end Sys2Proof.Machine

/-! PROOFS of O39, O40, O41 and O36. The invariant command by command, from the one lemma that says what a command can do
(`exec_next_cases`); its induction over a run; and the registers a command writes. -/

namespace Sys2Proof.Machine

/-- The four forms of a command (R82). -/
theorem instr_cases (i : Instr) :
    (∃ alg, i = .initOf alg) ∨ i = .reset ∨ (∃ data, i = .update data) ∨ i = .final := by
  cases i with
  | initMD4 => exact .inl ⟨.md4, rfl⟩
  | initMD5 => exact .inl ⟨.md5, rfl⟩
  | initSHA1 => exact .inl ⟨.sha1, rfl⟩
  | initSHA224 => exact .inl ⟨.sha224, rfl⟩
  | initSHA256 => exact .inl ⟨.sha256, rfl⟩
  | initSHA384 => exact .inl ⟨.sha384, rfl⟩
  | initSHA512 => exact .inl ⟨.sha512, rfl⟩
  | reset => exact .inr (.inl rfl)
  | update data => exact .inr (.inr (.inl ⟨data, rfl⟩))
  | final => exact .inr (.inr (.inr rfl))

theorem updateFault_eq_none {l : Life} : l.updateFault = none ↔ l = .ready := by
  cases l <;> simp [Life.updateFault]

theorem finalFault_eq_none {l : Life} : l.finalFault = none ↔ l = .ready := by
  cases l <;> simp [Life.finalFault]

/-- R311: the lifecycle table stops an UPDATE before anything else of it. -/
theorem exec_update_of_fault {s : State} {f : Fault} (h : s.life.updateFault = some f) (data : List Byte) :
    exec (.update data) s = .fault f := by
  simp [exec, execUpdate, h]

theorem exec_final_of_fault {s : State} {f : Fault} (h : s.life.finalFault = some f) : exec .final s = .fault f := by
  simp [exec, execFinal, h]

theorem exec_reset_unconfigured {s : State} (h : s.life = .unconfigured) : exec .reset s = .fault .frNoAlg := by
  simp [exec, execReset, h, Life.resetFault]

theorem step_of_inbox_nil {s : State} (h : s.inbox = []) : step s = .next s := by
  simp [step, nextCommand, h]

theorem step_of_inbox_cons {s : State} {tr : Transaction} {rest : List Transaction} (h : s.inbox = tr :: rest) :
    step s = transact tr { s with inbox := rest } := by
  simp [step, nextCommand, h]

/-- What the decoder makes of a transaction decides what runs: one command, or a stop that does not see the state (R311). -/
theorem transact_cases (tr : Transaction) :
    (∃ i, ∀ s, transact tr s = exec i s) ∨ (∃ e, ∀ s, transact tr s = rejected e) := by
  cases hd : decode tr with
  | ok i => exact .inl ⟨i, fun s => by simp [transact, hd]⟩
  | error e => exact .inr ⟨e, fun s => by simp [transact, hd]⟩

/-! ### The invariant -/

/-- The queue of commands is no part of the invariant. -/
theorem State.Inv.setInbox {s : State} (h : s.Inv) (inbox : List Transaction) :
    ({ s with inbox := inbox } : State).Inv :=
  ⟨h.toBlockWf.congr rfl rfl, h.off_lt, h.tail_zero, h.mlen_mod, h.mlen_le, h.final_off, h.final_zero⟩

/-- R330: power-on lists no byte of the Block and is in a LIFE state that claims nothing else. -/
theorem powerOn_inv (cfg : Config) : State.Inv { State.reset with cfg := cfg } :=
  ⟨⟨Memory.nil_wf, Memory.nil_wf, nofun, nofun⟩, nofun, nofun, nofun, nofun, nofun, nofun⟩

/-- R101, R102: a new message meets the invariant from every state, even one without it. -/
theorem startMessage_inv (s : State) : s.startMessage.Inv where
  toBlockWf := startMessage_wf s
  off_lt _ := by simpa using blockBytes_pos s.alg
  tail_zero _ a _ ha := readByte_startMessage s (by simpa using ha)
  mlen_mod _ := by simp
  mlen_le _ := by simp
  final_off h := by simp at h
  final_zero h := by simp at h

theorem initialise_inv (s : State) (alg : Alg) : (s.initialise alg).Inv := startMessage_inv (s.setAlg alg)

/-- R301: a failed UPDATE leaves the Block, and FAILED claims nothing else. -/
theorem raiseLengthOverflow_inv {s : State} (h : s.BlockWf) : s.raiseLengthOverflow.Inv :=
  ⟨h.congr rfl rfl, nofun, nofun, nofun, nofun, nofun, nofun⟩

/-- R32: the Block is zero from OFF on. -/
def State.TailZero (s : State) : Prop := ∀ a, s.off ≤ a → a < s.alg.blockBytes → s.readByte a = 0

/-- R105, R106: one byte takes the address it is written at out of the zero tail, and a full Block is cleared. -/
theorem State.TailZero.absorbByte {s : State} (hz : s.TailZero) (h : s.Absorbing) (b : Byte) :
    (s.absorbByte b).TailZero := by
  intro a hoff ha
  rw [State.absorbByte_alg] at ha
  rw [absorbByte_off h.off_lt] at hoff
  rw [readByte_absorbByte h b ha]
  split
  · rfl
  · rename_i hpartial
    have := h.off_lt
    rw [Nat.mod_eq_of_lt (by omega)] at hoff
    rw [if_neg (by omega)]
    exact hz a (by omega) ha

theorem State.TailZero.absorb {s : State} (hz : s.TailZero) (h : s.Absorbing) (data : List Byte) :
    (s.absorb data).TailZero := by
  induction data generalizing s with
  | nil => exact hz
  | cons b bs ih => exact ih (hz.absorbByte h b) (h.absorbByte b)

theorem State.Inv.absorbing {s : State} (h : s.Inv) (hl : s.life = .ready) : s.Absorbing :=
  ⟨h.toBlockWf, h.off_lt hl⟩

/-- R104: MLEN counts the bytes of an accepted UPDATE without wrapping. -/
theorem accept_mlen_toNat {s : State} {data : List Byte} (hle : s.mlen.toNat + data.length ≤ lengthLimit) :
    (s.accept data).mlen.toNat = s.mlen.toNat + data.length := by
  unfold lengthLimit at hle
  rw [State.accept_mlen, BitVec.toNat_ofNat, Nat.mod_eq_of_lt (by omega)]

/-- R105, R106: an accepted UPDATE keeps OFF in the Block, zeros above it, and `MLEN mod B = OFF`. -/
theorem accept_inv {s : State} (h : s.Inv) (hl : s.life = .ready) {data : List Byte}
    (hle : s.mlen.toNat + data.length ≤ lengthLimit) : (s.accept data).Inv := by
  have habs := (h.absorbing hl).absorb data
  have htail := State.TailZero.absorb (h.tail_zero hl) (h.absorbing hl) data
  have hmlen := accept_mlen_toNat hle
  exact
    { toBlockWf := habs.wf.congr rfl rfl
      off_lt := fun _ => habs.off_lt
      tail_zero := fun _ => htail
      mlen_mod := fun _ => by
        rw [hmlen, State.accept_alg, State.accept_off, absorb_off (h.off_lt hl), ← h.mlen_mod hl, Nat.mod_add_mod]
      mlen_le := fun _ => hmlen ▸ hle
      final_off := fun hf => by simp [hl] at hf
      final_zero := fun hf => by simp [hl] at hf }

/-- R108, R115: FINAL ends with a compression, which clears the Block, and keeps MLEN. -/
theorem finish_inv {s : State} (hm : s.mlen.toNat ≤ lengthLimit) : s.finish.Inv := by
  obtain ⟨hwf, hzero⟩ := padAndCompress_block s
  exact
    { toBlockWf := hwf.congr rfl rfl
      off_lt := fun hr => by simp at hr
      tail_zero := fun hr => by simp at hr
      mlen_mod := fun hr => by simp at hr
      mlen_le := fun _ => by simpa using hm
      final_off := fun _ => by simp
      final_zero := fun _ a ha => hzero a (by simpa using ha) }

/-- Every command keeps the invariant. -/
theorem exec_keeps_inv {i : Instr} {s t : State} (hs : s.Inv) (h : exec i s = .next t) : t.Inv := by
  rcases exec_next_cases h with ⟨alg, -, rfl⟩ | ⟨-, -, rfl⟩ | ⟨data, -, -, -, rfl⟩ | ⟨data, -, hl, hle, -, rfl⟩ |
    ⟨-, hl, -, rfl⟩
  · exact initialise_inv s alg
  · exact startMessage_inv s
  · exact raiseLengthOverflow_inv hs.toBlockWf
  · exact accept_inv hs hl hle
  · exact finish_inv (hs.mlen_le (.inl hl))

/-- Settles O39: an idle step changes nothing, and a command keeps the invariant. -/
theorem stepKeepsInvariant : Obligations.StepKeepsInvariant := by
  intro s t hs h
  rcases step_next_cases h with ⟨-, rfl⟩ | ⟨tr, rest, i, -, -, hexec⟩
  · exact hs
  · exact exec_keeps_inv (hs.setInbox rest) hexec

/-- Settles O40, by induction on the run. -/
theorem reachableStatesKeepInvariant : Obligations.ReachableStatesKeepInvariant := by
  intro s hs
  induction hs with
  | powerOn cfg => exact powerOn_inv cfg
  | issue s t _ ih => exact ih.setInbox _
  | step s t _ h ih => exact stepKeepsInvariant s t ih h

/-- The model's own fault has one cause: READY with OFF outside the Block (log entry 11). -/
theorem off_of_exec_blockIndexOutOfRange {i : Instr} {s : State} (h : exec i s = .fault .blockIndexOutOfRange) :
    s.life = .ready ∧ s.alg.blockBytes ≤ s.off := by
  rcases instr_cases i with ⟨alg, rfl⟩ | rfl | ⟨data, rfl⟩ | rfl
  · rw [exec_initOf] at h
    cases h
  · by_cases hl : s.life = .unconfigured
    · rw [exec_reset_unconfigured hl] at h
      cases h
    · rw [exec_reset_configured hl] at h
      cases h
  · cases hl : s.life with
    | ready =>
      rw [exec_update_ready hl] at h
      split at h
      · cases h
      · split at h
        · rename_i hout
          exact ⟨rfl, hout.2⟩
        · cases h
    | unconfigured | finalized | failed =>
      rw [exec_update_of_fault (by rw [hl]; rfl)] at h
      cases h
  · cases hl : s.life with
    | ready =>
      rw [exec_final_ready hl] at h
      split at h
      · cases h
      · exact ⟨rfl, by omega⟩
    | unconfigured | finalized | failed =>
      rw [exec_final_of_fault (by rw [hl]; rfl)] at h
      cases h

theorem exec_ne_blockIndexOutOfRange {s : State} (hs : s.Inv) (i : Instr) :
    exec i s ≠ .fault .blockIndexOutOfRange := by
  intro h
  obtain ⟨hl, hoff⟩ := off_of_exec_blockIndexOutOfRange h
  have := hs.off_lt hl
  omega

/-- Settles O41: the invariant keeps OFF in the Block, and no idle step and no rejected transaction raises this fault. -/
theorem noRunLeavesTheBlock : Obligations.NoRunLeavesTheBlock := by
  intro s hs
  have hinv := reachableStatesKeepInvariant s hs
  cases hb : s.inbox with
  | nil =>
    rw [step_of_inbox_nil hb]
    nofun
  | cons tr rest =>
    rw [step_of_inbox_cons hb]
    rcases transact_cases tr with ⟨i, hi⟩ | ⟨e, he⟩
    · rw [hi]
      exact exec_ne_blockIndexOutOfRange (hinv.setInbox rest) i
    · rw [he]
      cases e <;> nofun

/-! ### The registers a command writes -/

/-- Settles O36: each clause is read off the one form of the next state its command can have. -/
theorem registersWrittenOnlyAsSpecified : Obligations.RegistersWrittenOnlyAsSpecified := by
  intro i s t h
  obtain ⟨hinbox, hcfg⟩ := exec_keeps_inbox_cfg h
  rcases exec_next_cases h with ⟨alg, rfl, rfl⟩ | ⟨rfl, hl, rfl⟩ | ⟨data, rfl, hl, -, rfl⟩ | ⟨data, rfl, hl, hle, -, rfl⟩ |
    ⟨rfl, hl, -, rfl⟩
  · refine ⟨fun _ => ⟨alg, rfl⟩, fun alg' ha => ?_, fun hn => absurd rfl (hn alg), ?_⟩
    · simp [initOf_injective ha]
    · simp
  · simp [hl]
  · simp [hl]
  · have hmlen := accept_mlen_toNat hle
    refine ⟨?_, ?_, ?_, ?_, fun data' hd _ => ?_, ?_⟩
    · simp [hl]
    · simp
    · simp
    · simp
    · cases hd
      exact hmlen
    · simp
  · simp [hl]

end Sys2Proof.Machine

/-! PROOF of O45. Two engines in the middle of the same message, as far as any command reads them, stay so under every
operation; what a host sees follows from that. -/

namespace Sys2Proof.Machine

/-- Two states agree in all that UPDATE and FINAL read: ALG, LEN_FIELD_64, OFF and MLEN, and of H
and BLK the bits an operation reads (R24, R31). -/
structure SameMessage (s t : State) : Prop where
  wf_left : s.BlockWf
  wf_right : t.BlockWf
  alg : s.alg = t.alg
  cfg : s.cfg = t.cfg
  off : s.off = t.off
  mlen : s.mlen = t.mlen
  chain : s.chain = t.chain
  block : ∀ a, a < s.alg.blockBytes → s.readByte a = t.readByte a

namespace SameMessage

variable {s t : State}

theorem setOff (h : SameMessage s t) (n : Nat) : SameMessage (s.setOff n) (t.setOff n) :=
  { h with off := rfl, wf_left := h.wf_left.congr rfl rfl, wf_right := h.wf_right.congr rfl rfl }

/-- Writes inside the buffer, whatever they write. -/
theorem memWrite (h : SameMessage s t) {a : Nat} {vs : List Byte} (ha : a + vs.length ≤ 128) :
    SameMessage (s.memWrite a vs) (t.memWrite a vs) where
  wf_left := h.wf_left.memWrite ha
  wf_right := h.wf_right.memWrite ha
  alg := by simpa using h.alg
  cfg := by simpa using h.cfg
  off := by simpa using h.off
  mlen := by simpa using h.mlen
  chain := by simpa using h.chain
  block b hb := by
    rw [readByte_memWrite h.wf_left ha, readByte_memWrite h.wf_right ha, h.block b (by simpa using hb)]

theorem writeByte (h : SameMessage s t) {a : Nat} (ha : a < 128) (v : Byte) :
    SameMessage (s.writeByte a v) (t.writeByte a v) :=
  h.memWrite (vs := [v]) ha

/-- R108: PROCESS reads the ChainingState and the B bytes of the Block, and the Block is cleared after it. -/
theorem compress (h : SameMessage s t) : SameMessage s.compress t.compress where
  wf_left := compress_wf s
  wf_right := compress_wf t
  alg := by simpa using h.alg
  cfg := by simpa using h.cfg
  off := by simpa using h.off
  mlen := by simpa using h.mlen
  chain := by
    have hblk : s.memRead 0 s.alg.blockBytes = t.memRead 0 s.alg.blockBytes :=
      memRead_congr fun j hj => h.block (0 + j) (by omega)
    rw [chain_compress, chain_compress, hblk, h.chain, h.alg]
  block a ha := by
    rw [State.compress_alg] at ha
    rw [readByte_compress s ha, readByte_compress t (h.alg ▸ ha)]

/-- R101, R102: a new message depends on the algorithm and the parameters alone. -/
theorem startMessage (halg : s.alg = t.alg) (hcfg : s.cfg = t.cfg) : SameMessage s.startMessage t.startMessage where
  wf_left := startMessage_wf s
  wf_right := startMessage_wf t
  alg := by simpa using halg
  cfg := by simpa using hcfg
  off := by simp
  mlen := by simp
  chain := by simp [halg]
  block a ha := by
    rw [State.startMessage_alg] at ha
    rw [readByte_startMessage s ha, readByte_startMessage t (halg ▸ ha)]

/-- R105, R106: one byte of an UPDATE. -/
theorem absorbByte (h : SameMessage s t) (ho : s.off < s.alg.blockBytes) (b : Byte) :
    SameMessage (s.absorbByte b) (t.absorbByte b) := by
  have hB := blockBytes_le s.alg
  have hwritten := (h.writeByte (a := s.off) (by omega) b).setOff (s.off + 1)
  by_cases hf : s.off + 1 = s.alg.blockBytes
  · rw [absorbByte_full b hf, absorbByte_full b (h.off ▸ h.alg ▸ hf), ← h.off]
    exact hwritten.compress.setOff 0
  · rw [absorbByte_partial b hf, absorbByte_partial b (h.off ▸ h.alg ▸ hf), ← h.off]
    exact hwritten

theorem absorb (h : SameMessage s t) (ho : s.off < s.alg.blockBytes) (data : List Byte) :
    SameMessage (s.absorb data) (t.absorb data) := by
  induction data generalizing s t with
  | nil => exact h
  | cons b bs ih =>
    have hnext : State.Absorbing (s.absorbByte b) := State.Absorbing.absorbByte ⟨h.wf_left, ho⟩ b
    exact ih (h.absorbByte ho b) hnext.off_lt

theorem accept (h : SameMessage s t) (ho : s.off < s.alg.blockBytes) (data : List Byte) :
    SameMessage (s.accept data) (t.accept data) :=
  have habs := h.absorb ho data
  { wf_left := habs.wf_left.congr rfl rfl
    wf_right := habs.wf_right.congr rfl rfl
    alg := habs.alg
    cfg := habs.cfg
    off := habs.off
    mlen := by simp [h.mlen]
    chain := habs.chain
    block := habs.block }

/-- R111: marker and zero fill. -/
theorem pad (h : SameMessage s t) (ho : s.off < s.alg.blockBytes) : SameMessage s.pad t.pad := by
  have hB := blockBytes_le s.alg
  unfold State.pad
  rw [← h.off, ← h.alg]
  exact (h.writeByte (by omega) _).memWrite (by rw [List.length_replicate]; omega)

/-- R138: the length field. -/
theorem setMsgSize (h : SameMessage s t) (bits : Nat) : SameMessage (s.setMsgSize bits) (t.setMsgSize bits) := by
  have hB := blockBytes_le s.alg
  have hF := lengthBytes_bounds s.alg s.cfg
  unfold State.setMsgSize
  rw [← h.alg, ← h.cfg]
  exact h.memWrite (by rw [length_toBytes]; omega)

/-- R112 to R114: the room test falls alike, and so does what follows it. -/
theorem padAndCompress (h : SameMessage s t) (ho : s.off < s.alg.blockBytes) :
    SameMessage s.padAndCompress t.padAndCompress := by
  have hpad := h.pad ho
  rcases Nat.lt_or_ge s.alg.blockBytes (s.off + 1 + s.alg.lengthBytes s.cfg) with hroom | hroom
  · rw [padAndCompress_of_no_room hroom, padAndCompress_of_no_room (h.off ▸ h.alg ▸ h.cfg ▸ hroom), ← h.mlen]
    exact (hpad.compress.setMsgSize _).compress
  · rw [padAndCompress_of_room hroom, padAndCompress_of_room (h.off ▸ h.alg ▸ h.cfg ▸ hroom), ← h.mlen]
    exact (hpad.setMsgSize _).compress

/-- R140, R141: GET_DIGEST reads the algorithm and the ChainingState. -/
theorem getDigest_eq (h : SameMessage s t) : s.getDigest = t.getDigest := by
  simp [State.getDigest, h.alg, h.chain]

/-- R115: the Digests of FINAL agree. -/
theorem finish_getDigest_eq (h : SameMessage s t) (ho : s.off < s.alg.blockBytes) :
    s.finish.getDigest = t.finish.getDigest :=
  (h.padAndCompress ho).getDigest_eq

/-- With LIFE and the queues equal, no host can tell the states apart. -/
theorem sameToHost (h : SameMessage s t) (hlife : s.life = t.life) (hinbox : s.inbox = t.inbox)
    (houtbox : s.outbox = t.outbox) : SameToHost s t where
  life := hlife
  cfg := h.cfg
  inbox := hinbox
  outbox := houtbox
  alg _ := h.alg
  chain _ := h.chain
  block _ := h.block
  off _ := h.off
  mlen _ := h.mlen

end SameMessage

namespace SameToHost

variable {s t : State}

theorem alg_of_ready (h : SameToHost s t) (hl : s.life = .ready) : s.alg = t.alg := h.alg (by simp [hl])

/-- In READY every value a command reads is one the host can tell by. -/
theorem sameMessage (h : SameToHost s t) (hs : s.BlockWf) (ht : t.BlockWf) (hl : s.life = .ready) : SameMessage s t where
  wf_left := hs
  wf_right := ht
  alg := h.alg_of_ready hl
  cfg := h.cfg
  off := h.off hl
  mlen := h.mlen hl
  chain := h.chain hl
  block := h.block hl

theorem setInbox (h : SameToHost s t) (inbox : List Transaction) :
    SameToHost { s with inbox := inbox } { t with inbox := inbox } :=
  ⟨h.life, h.cfg, rfl, h.outbox, h.alg, h.chain, h.block, h.off, h.mlen⟩

/-- A new message under one algorithm, from any two states with the same parameters and queues (R101, R102). -/
theorem startMessage (halg : s.alg = t.alg) (hcfg : s.cfg = t.cfg) (hinbox : s.inbox = t.inbox)
    (houtbox : s.outbox = t.outbox) : SameToHost s.startMessage t.startMessage :=
  (SameMessage.startMessage halg hcfg).sameToHost (by simp) (by simpa using hinbox) (by simpa using houtbox)

/-- R101: INIT reads nothing that a host cannot tell. -/
theorem initialise (h : SameToHost s t) (alg : Alg) : SameToHost (s.initialise alg) (t.initialise alg) :=
  SameToHost.startMessage rfl h.cfg h.inbox h.outbox

/-- R301: in FAILED nothing but LIFE, ALG, the parameters and the queues can be told. -/
theorem raiseLengthOverflow (h : SameToHost s t) (hl : s.life = .ready) :
    SameToHost s.raiseLengthOverflow t.raiseLengthOverflow where
  life := rfl
  cfg := h.cfg
  inbox := h.inbox
  outbox := by simp [h.outbox]
  alg _ := h.alg_of_ready hl
  chain hr := by simp at hr
  block hr := by simp at hr
  off hr := by simp at hr
  mlen hr := by simp at hr

theorem accept (h : SameToHost s t) (hs : s.Inv) (ht : t.BlockWf) (hl : s.life = .ready) (data : List Byte) :
    SameToHost (s.accept data) (t.accept data) :=
  ((h.sameMessage hs.toBlockWf ht hl).accept (hs.off_lt hl) data).sameToHost
    (by simpa using h.life) (by simpa using h.inbox) (by simp [h.outbox])

/-- R115: FINAL answers the same Digest; after it H, BLK and OFF are read by no command (R37). -/
theorem finish (h : SameToHost s t) (hs : s.Inv) (ht : t.BlockWf) (hl : s.life = .ready) :
    SameToHost s.finish t.finish where
  life := by simp
  cfg := by simpa using h.cfg
  inbox := by simpa using h.inbox
  outbox := by
    have hd := (h.sameMessage hs.toBlockWf ht hl).finish_getDigest_eq (hs.off_lt hl)
    rw [finish_outbox, finish_outbox, h.outbox, hd]
  alg _ := by simpa using h.alg_of_ready hl
  chain hr := by simp at hr
  block hr := by simp at hr
  off hr := by simp at hr
  mlen hr := by simp at hr

/-! ### Command by command -/

theorem sameOutcome_reset (h : SameToHost s t) : SameOutcomeToHost (exec .reset s) (exec .reset t) := by
  by_cases hl : s.life = .unconfigured
  · rw [exec_reset_unconfigured hl, exec_reset_unconfigured (h.life ▸ hl)]
    rfl
  · rw [exec_reset_configured hl, exec_reset_configured (h.life ▸ hl)]
    exact SameToHost.startMessage (h.alg hl) h.cfg h.inbox h.outbox

/-- Both states take the same branch of R103 and R104: LIFE, MLEN, OFF and B decide it. -/
theorem sameOutcome_update (h : SameToHost s t) (hs : s.Inv) (ht : t.BlockWf) (data : List Byte) :
    SameOutcomeToHost (exec (.update data) s) (exec (.update data) t) := by
  cases hf : s.life.updateFault with
  | some f =>
    rw [exec_update_of_fault hf, exec_update_of_fault (h.life ▸ hf)]
    rfl
  | none =>
    have hl := updateFault_eq_none.mp hf
    have halg := h.alg_of_ready hl
    rw [exec_update_ready hl, exec_update_ready (h.life ▸ hl), ← h.mlen hl, ← h.off hl, ← halg]
    split
    · exact h.raiseLengthOverflow hl
    · split
      · rfl
      · exact h.accept hs ht hl data

theorem sameOutcome_final (h : SameToHost s t) (hs : s.Inv) (ht : t.BlockWf) :
    SameOutcomeToHost (exec .final s) (exec .final t) := by
  cases hf : s.life.finalFault with
  | some f =>
    rw [exec_final_of_fault hf, exec_final_of_fault (h.life ▸ hf)]
    rfl
  | none =>
    have hl := finalFault_eq_none.mp hf
    have halg := h.alg_of_ready hl
    rw [exec_final_ready hl, exec_final_ready (h.life ▸ hl), ← h.off hl, ← halg]
    split
    · exact h.finish hs ht hl
    · rfl

theorem sameOutcome_exec (h : SameToHost s t) (hs : s.Inv) (ht : t.BlockWf) (i : Instr) :
    SameOutcomeToHost (exec i s) (exec i t) := by
  rcases instr_cases i with ⟨alg, rfl⟩ | rfl | ⟨data, rfl⟩ | rfl
  · rw [exec_initOf, exec_initOf]
    exact h.initialise alg
  · exact h.sameOutcome_reset
  · exact h.sameOutcome_update hs ht data
  · exact h.sameOutcome_final hs ht

end SameToHost

/-- Settles O45: an idle step leaves both states, and a transaction is rejected in both or runs one command in both. -/
theorem unspecifiedValuesHaveNoEffect : Obligations.UnspecifiedValuesHaveNoEffect := by
  intro s t hs ht h
  cases hb : s.inbox with
  | nil =>
    rw [step_of_inbox_nil hb, step_of_inbox_nil (h.inbox ▸ hb)]
    exact h
  | cons tr rest =>
    rw [step_of_inbox_cons hb, step_of_inbox_cons (h.inbox ▸ hb)]
    rcases transact_cases tr with ⟨i, hi⟩ | ⟨e, he⟩
    · rw [hi, hi]
      exact (h.setInbox rest).sameOutcome_exec (hs.setInbox rest) (ht.setInbox rest).toBlockWf i
    · rw [he, he]
      cases e <;> rfl

end Sys2Proof.Machine

/-! PROOFS of O5, O12, O30, O32 and O46. What each byte or word of a conversion is, one lemma per function of
Machine/Operands.lean, and from them the message words, the length field and the Digest; the command a step runs; and one
instance of a fleet under a transaction. -/

namespace Sys2Proof.Machine

/-! ### Bytes into words -/

/-- LE(s) is below 256 to the length of s (R12). -/
theorem fromLE_lt (bs : List Byte) : fromLE bs < 256 ^ bs.length := by
  induction bs with
  | nil => simp [fromLE]
  | cons b bs ih =>
    have hb := b.isLt
    rw [fromLE, List.length_cons, Nat.pow_succ]
    omega

theorem fromBytes_lt (ord : ByteOrder) (bs : List Byte) : fromBytes ord bs < 256 ^ bs.length := by
  cases ord with
  | little => exact fromLE_lt bs
  | big => simpa [fromBytes, fromBE] using fromLE_lt bs.reverse

/-- A slice of a memory read is the memory read of the slice. -/
theorem take_drop_memRead (s : State) {a b n k : Nat} (h : k + n ≤ b) :
    ((s.memRead a b).drop k).take n = s.memRead (a + k) n := by
  apply List.ext_getElem
  · rw [List.length_take, List.length_drop, length_memRead, length_memRead]
    omega
  · intro j h1 h2
    rw [List.getElem_take, List.getElem_drop, getElem_memRead, getElem_memRead, Nat.add_assoc]

/-- Message word i is the number of the n bytes at address n i (R53, R55). -/
theorem toNat_messageWord (s : State) (ord : ByteOrder) {n b i : Nat} (hi : i < 16) (hb : n * 16 = b) :
    ((messageWords (8 * n) n ord (s.memRead 0 b)).getD i 0).toNat = fromBytes ord (s.memRead (n * i) n) := by
  have hslice : n * i + n ≤ b := by
    rw [← hb, ← Nat.mul_succ]
    exact Nat.mul_le_mul_left n hi
  have hlt := fromBytes_lt ord (s.memRead (n * i) n)
  rw [length_memRead, show 256 = 2 ^ 8 from rfl, ← Nat.pow_mul] at hlt
  have hword : (messageWords (8 * n) n ord (s.memRead 0 b)).getD i 0 =
      BitVec.ofNat (8 * n) (fromBytes ord (s.memRead (n * i) n)) := by
    rw [messageWords, List.getD_eq_getElem _ _ (by simpa using hi), List.getElem_map, List.getElem_range,
      take_drop_memRead s hslice, Nat.zero_add]
  rw [hword, BitVec.toNat_ofNat, Nat.mod_eq_of_lt hlt]

/-- A Block is 16 words (R6). -/
theorem wordBits_mul_two (alg : Alg) : alg.wordBits * 2 = alg.blockBytes := by cases alg <;> rfl

/-- Settles O12: a message word is the number of its bytes, which is then written out. -/
theorem messageWordAssembly : Obligations.MessageWordAssembly := by
  intro s i hi
  have hblock := wordBits_mul_two s.alg
  have hmem4 : s.memRead (4 * i) 4 =
    [s.readByte (4 * i), s.readByte (4 * i + 1), s.readByte (4 * i + 2), s.readByte (4 * i + 3)] := rfl
  have hmem8 : s.memRead (8 * i) 8 =
    [s.readByte (8 * i), s.readByte (8 * i + 1), s.readByte (8 * i + 2), s.readByte (8 * i + 3),
     s.readByte (8 * i + 4), s.readByte (8 * i + 5), s.readByte (8 * i + 6), s.readByte (8 * i + 7)] := rfl
  refine ⟨fun hw => ⟨?_, ?_⟩, fun hw => ?_⟩
  · rw [toNat_messageWord (n := 4) s .little hi (by omega), hmem4]
    simp only [fromBytes, fromLE]
    omega
  · rw [toNat_messageWord (n := 4) s .big hi (by omega), hmem4]
    simp only [fromBytes, fromBE, fromLE, List.reverse_cons, List.reverse_nil, List.nil_append, List.cons_append]
    omega
  · rw [toNat_messageWord (n := 8) s .big hi (by omega), hmem8]
    simp only [fromBytes, fromBE, fromLE, List.reverse_cons, List.reverse_nil, List.nil_append, List.cons_append]
    omega

/-! ### Numbers into bytes -/

/-- Settles O30: the byte at each address of the Block, with the address turned into an index of the length field. -/
theorem lengthFieldBytes : Obligations.LengthFieldBytes := by
  intro s bits hwf f b
  obtain ⟨-, -, hfb⟩ := lengthBytes_bounds s.alg s.cfg
  refine ⟨fun k hk => ⟨fun hord => ?_, fun hord => ?_⟩, fun a ha => ?_, ?_⟩
  · have hidx : b - f + k - (b - f) = k := by omega
    rw [readByte_setMsgSize hwf bits (by omega), if_neg (by omega), hidx, hord]
    exact getD_toLE _ hk
  · have hidx : b - 1 - k - (b - f) = f - 1 - k := by omega
    have hback : f - 1 - (f - 1 - k) = k := by omega
    rw [readByte_setMsgSize hwf bits (by omega), if_neg (by omega), hidx, hord, toBytes,
      getD_toBE _ (by omega), hback]
  · rw [readByte_setMsgSize hwf bits (by omega), if_pos ha]
  · simp

/-- Byte j of a list of words is byte j mod n of word floor(j / n) (R57). -/
theorem getD_wordBytes {w n : Nat} (ord : ByteOrder) {ws : List (BitVec w)} {j : Nat} (hj : j < ws.length * n) :
    (wordBytes n ord ws).getD j 0 = (toBytes ord n (ws.getD (j / n) 0).toNat).getD (j % n) 0 := by
  have hn : 0 < n := Nat.pos_of_mul_pos_left (Nat.zero_lt_of_lt hj)
  induction ws generalizing j with
  | nil => simp at hj
  | cons x xs ih =>
    have hcons : wordBytes n ord (x :: xs) = toBytes ord n x.toNat ++ wordBytes n ord xs := rfl
    rw [hcons]
    rcases Nat.lt_or_ge j n with hlt | hge
    · rw [List.getD_append _ _ _ _ (by simpa using hlt), Nat.div_eq_of_lt hlt, Nat.mod_eq_of_lt hlt,
        List.getD_cons_zero]
    · obtain ⟨k, rfl⟩ := Nat.exists_eq_add_of_le hge
      rw [List.length_cons, Nat.succ_mul] at hj
      rw [List.getD_append_right _ _ _ _ (by simp), length_toBytes, Nat.add_sub_cancel_left, ih (by omega),
        Nat.add_div_left k hn, List.getD_cons_succ, Nat.add_mod_left]

/-- GET_DIGEST reads no byte past the serialized ChainingState (R140). -/
theorem digestBytes_le (alg : Alg) : alg.digestBytes ≤ alg.chainWords * (alg.wordBits / 8) := by
  cases alg <;> decide

/-- With W = 32 the ChainingState is NH words of 32 bits (R22). -/
theorem chain_eq_w32 {s : State} (hw : s.alg.wordBits = 32) :
    ∃ ws, s.chain = .w32 ws ∧ ws.length = s.alg.chainWords := by
  have hfit := chain_fits s
  cases hc : s.chain with
  | w32 ws =>
    rw [hc] at hfit
    exact ⟨ws, rfl, hfit.2⟩
  | w64 ws => simp [hc, chainFits, hw] at hfit

/-- With W = 64 the ChainingState is NH words of 64 bits (R22). -/
theorem chain_eq_w64 {s : State} (hw : s.alg.wordBits = 64) :
    ∃ ws, s.chain = .w64 ws ∧ ws.length = s.alg.chainWords := by
  have hfit := chain_fits s
  cases hc : s.chain with
  | w32 ws => simp [hc, chainFits, hw] at hfit
  | w64 ws =>
    rw [hc] at hfit
    exact ⟨ws, rfl, hfit.2⟩

/-- The serialized ChainingState has NH words of W/8 bytes (R57). -/
theorem length_chainBytes (ord : ByteOrder) (s : State) :
    (chainBytes ord s.chain).length = s.alg.chainWords * (s.alg.wordBits / 8) := by
  rcases wordBits_cases s.alg with hw | hw
  · obtain ⟨ws, hc, hlen⟩ := chain_eq_w32 hw
    rw [hc, chainBytes, length_wordBytes, hlen, hw]
  · obtain ⟨ws, hc, hlen⟩ := chain_eq_w64 hw
    rw [hc, chainBytes, length_wordBytes, hlen, hw]

theorem length_getDigest (s : State) : s.getDigest.length = s.alg.digestBytes := by
  rw [State.getDigest, List.length_take, length_chainBytes, Nat.min_eq_left (digestBytes_le _)]

/-- Truncation keeps the bytes below D as they are (R141). -/
theorem getD_getDigest {s : State} {j : Nat} (hj : j < s.alg.digestBytes) :
    s.getDigest.getD j 0 = (chainBytes s.alg.byteOrder s.chain).getD j 0 := by
  simp [State.getDigest, List.getD_eq_getElem?_getD, hj]

/-- Byte j of the Digest where W = 32 (R140). -/
theorem getD_getDigest_32 {s : State} (hw : s.alg.wordBits = 32) {j : Nat} (hj : j < s.alg.digestBytes) :
    s.getDigest.getD j 0 =
      (toBytes s.alg.byteOrder 4 ((chainWords32 s.chain).getD (j / 4) 0).toNat).getD (j % 4) 0 := by
  have hle := digestBytes_le s.alg
  obtain ⟨ws, hc, hlen⟩ := chain_eq_w32 hw
  rw [hw, ← hlen] at hle
  rw [getD_getDigest hj, hc]
  exact getD_wordBytes _ (by omega)

/-- Byte j of the Digest where W = 64 (R140). -/
theorem getD_getDigest_64 {s : State} (hw : s.alg.wordBits = 64) {j : Nat} (hj : j < s.alg.digestBytes) :
    s.getDigest.getD j 0 =
      (toBytes s.alg.byteOrder 8 ((chainWords64 s.chain).getD (j / 8) 0).toNat).getD (j % 8) 0 := by
  have hle := digestBytes_le s.alg
  obtain ⟨ws, hc, hlen⟩ := chain_eq_w64 hw
  rw [hw, ← hlen] at hle
  rw [getD_getDigest hj, hc]
  exact getD_wordBytes _ (by omega)

/-- The little-endian families have W = 32 (R6). -/
theorem wordBits_of_little {alg : Alg} (h : alg.byteOrder = .little) : alg.wordBits = 32 := by
  revert h
  cases alg <;> decide

/-- The families with W = 64 are big-endian (R6). -/
theorem byteOrder_of_64 {alg : Alg} (h : alg.wordBits = 64) : alg.byteOrder = .big := by
  revert h
  cases alg <;> decide

/-- Settles O32: the byte of the Digest is a byte of a ChainingState word, and the order of the family says which. -/
theorem digestBytes : Obligations.DigestBytes := by
  intro s
  refine ⟨length_getDigest s, fun j hj => ⟨fun hord => ?_, fun hord hw => ?_, fun hw => ?_⟩⟩
  · rw [getD_getDigest_32 (wordBits_of_little hord) hj, hord]
    exact getD_toLE _ (Nat.mod_lt _ (by decide))
  · rw [getD_getDigest_32 hw hj, hord]
    exact getD_toBE _ (Nat.mod_lt _ (by decide))
  · rw [getD_getDigest_64 hw hj, byteOrder_of_64 hw]
    exact getD_toBE _ (Nat.mod_lt _ (by decide))

/-! ### The command a step runs -/

theorem transact_of_decode {tr : Transaction} {i : Instr} (h : decode tr = .ok i) (s : State) :
    transact tr s = exec i s := by
  simp [transact, h]

theorem decodeTableWord_eq_some {nbits w : Nat} {i : Instr} :
    decodeTableWord nbits w = some i ↔ decode (transactionOfBits nbits w) = .ok i := by
  unfold decodeTableWord
  cases decode (transactionOfBits nbits w) <;> simp

/-- Settles O5: a step is the oldest transaction, decoded and executed; table bits are placed as the oldest. -/
theorem stepRunsDecodedCommand : Obligations.StepRunsDecodedCommand := by
  refine ⟨fun s t rest i hb hd => ?_, fun s nbits w i hw => ?_⟩
  · rw [step_of_inbox_cons hb, transact_of_decode hd]
  · have hb : (s.withFetchWord nbits w).inbox = transactionOfBits nbits w :: s.inbox := rfl
    rw [step_of_inbox_cons hb, transact_of_decode (decodeTableWord_eq_some.mp hw)]
    rfl

/-! ### Instances of a fleet -/

/-- A transaction to one instance reads and writes no other (R68). -/
theorem Fleet.getElem?_issue (fl : Fleet) (j k : Nat) (t : Transaction) :
    (fl.issue j t)[k]? = if j = k then fl[k]?.map (deliver t) else fl[k]? := by
  rw [Fleet.issue, List.getElem?_modify]
  split <;> simp

theorem transactionsTo_cons (k j : Nat) (t : Transaction) (trace : List (Nat × Transaction)) :
    transactionsTo k ((j, t) :: trace) =
      if j = k then t :: transactionsTo k trace else transactionsTo k trace := by
  by_cases h : j = k <;> simp [transactionsTo, h]

/-- Settles O46, by induction on the trace: its first transaction goes to instance k or leaves instance k as it is. -/
theorem instancesAreIndependent : Obligations.InstancesAreIndependent := by
  intro fl trace k
  induction trace generalizing fl with
  | nil =>
    have hid : deliverAll [] = id := rfl
    simp [Fleet.run, transactionsTo, hid]
  | cons c trace ih =>
    obtain ⟨j, t⟩ := c
    have hrun : fl.run ((j, t) :: trace) = (fl.issue j t).run trace := rfl
    rw [hrun, ih, Fleet.getElem?_issue, transactionsTo_cons]
    split
    · rw [Option.map_map]
      rfl
    · rfl

end Sys2Proof.Machine

/-! PROOFS of O2, O1, O3, O4 and O37. A header word is determined by its three fields, so the decoder reads a header from
its own table word alone; the transactions it takes and rejects follow, and the response of each command. -/

namespace Sys2Proof

/-! ### Header words -/

theorem eq_ofNat_of_toNat {w n : Nat} {x : BitVec w} (h : x.toNat = n) : x = BitVec.ofNat w n := by
  rw [← h, BitVec.ofNat_toNat, BitVec.setWidth_eq]

/-- R81: OP, ALG and RSVD are all the bits of a header. -/
theorem header_ext {a b : BitVec 32} (hop : opField a = opField b) (halg : algField a = algField b)
    (hrsvd : rsvdField a = rsvdField b) : a = b := by
  have fields (cmd : BitVec 32) : opField cmd ++ (algField cmd ++ rsvdField cmd) = cmd := by
    have hlow : algField cmd ++ rsvdField cmd = cmd.extractLsb' 0 28 :=
      BitVec.extractLsb'_append_extractLsb'_eq_extractLsb' rfl
    have hall : opField cmd ++ cmd.extractLsb' 0 28 = cmd.extractLsb' 0 32 :=
      BitVec.extractLsb'_append_extractLsb'_eq_extractLsb' rfl
    rw [hlow, hall, BitVec.extractLsb'_eq_self]
  rw [← fields a, ← fields b, hop, halg, hrsvd]

/-- The table word of a header (R87): the header word of its commands, whatever data an UPDATE carries. -/
def Header.word : Header → BitVec 32
  | .init alg => headerWord (.initOf alg)
  | .reset => headerWord .reset
  | .update => headerWord (.update [])
  | .final => headerWord .final

/-- The ten rows of the opcode table (R87). -/
def opcodeTable : List (BitVec 32 × Header) :=
  [(0x10000000#32, .init .md4), (0x11000000#32, .init .md5), (0x12000000#32, .init .sha1),
   (0x13000000#32, .init .sha224), (0x14000000#32, .init .sha256), (0x15000000#32, .init .sha384),
   (0x16000000#32, .init .sha512), (0x20000000#32, .reset), (0x30000000#32, .update), (0x40000000#32, .final)]

theorem mem_opcodeTable {cmd : BitVec 32} {h : Header} : (cmd, h) ∈ opcodeTable ↔ cmd = h.word := by
  refine ⟨fun hmem => ?_, ?_⟩
  · have hrows : ∀ p ∈ opcodeTable, p.1 = p.2.word := by decide
    exact hrows _ hmem
  · rintro rfl
    cases h with
    | init alg => cases alg <;> decide
    | reset | update | final => decide

/-- The code of an algorithm (R83), as its INIT carries it. -/
theorem ofCode_eq_some {n : Nat} {alg : Alg} :
    Alg.ofCode n = some alg ↔ n = (algField (headerWord (.initOf alg))).toNat := by
  refine ⟨fun h => ?_, ?_⟩
  · unfold Alg.ofCode at h
    split at h <;> cases h <;> rfl
  · rintro rfl
    cases alg <;> rfl

/-- R83: the codes from 7 on are reserved. -/
theorem ofCode_eq_none {n : Nat} : Alg.ofCode n = none ↔ 7 ≤ n := by
  match n with
  | 0 | 1 | 2 | 3 | 4 | 5 | 6 => simp [Alg.ofCode]
  | n + 7 => simp [Alg.ofCode]

theorem decodeHeader_word (h : Header) : decodeHeader h.word = some h := by
  cases h with
  | init alg => cases alg <;> decide
  | reset | update | final => decide

/-- A header word that is read has the fields of the table word (R82). -/
theorem decodeHeader_fields {cmd : BitVec 32} {h : Header} (hdec : decodeHeader cmd = some h) :
    opField cmd = opField h.word ∧ algField cmd = algField h.word ∧ rsvdField cmd = rsvdField h.word := by
  unfold decodeHeader at hdec
  split at hdec
  case isFalse => cases hdec
  case isTrue hrsvd =>
    split at hdec
    case h_1 hop =>
      obtain ⟨alg, hcode, rfl⟩ := Option.map_eq_some_iff.mp hdec
      have halg := BitVec.eq_of_toNat_eq (ofCode_eq_some.mp hcode)
      refine ⟨(eq_ofNat_of_toNat hop).trans ?_, halg, hrsvd.trans ?_⟩ <;> cases alg <;> rfl
    case h_5 => cases hdec
    case h_2 hop | h_3 hop | h_4 hop =>
      obtain ⟨halg, hh⟩ := (Option.ite_none_right_eq_some ..).mp hdec
      cases hh
      exact ⟨BitVec.eq_of_toNat_eq hop, halg, hrsvd⟩

/-- R87: the decoder reads a header from its table word and from no other word. -/
theorem decodeHeader_eq_some {cmd : BitVec 32} {h : Header} : decodeHeader cmd = some h ↔ cmd = h.word := by
  refine ⟨fun hdec => ?_, fun hw => hw ▸ decodeHeader_word h⟩
  obtain ⟨hop, halg, hrsvd⟩ := decodeHeader_fields hdec
  exact header_ext hop halg hrsvd

/-- R88: the reserved headers, field by field. -/
theorem decodeHeader_eq_none {cmd : BitVec 32} : decodeHeader cmd = none ↔
    (opField cmd = 0 ∨ 5 ≤ (opField cmd).toNat) ∨ (opField cmd = 1 ∧ 7 ≤ (algField cmd).toNat) ∨
    ((opField cmd = 2 ∨ opField cmd = 3 ∨ opField cmd = 4) ∧ algField cmd ≠ 0) ∨ rsvdField cmd ≠ 0 := by
  unfold decodeHeader
  split
  case isFalse hrsvd => exact iff_of_true rfl (.inr (.inr (.inr hrsvd)))
  case isTrue hrsvd =>
    split
    case h_1 hop => simp [eq_ofNat_of_toNat hop, hrsvd, ofCode_eq_none]
    case h_2 hop | h_3 hop | h_4 hop => simp [eq_ofNat_of_toNat hop, hrsvd]
    case h_5 =>
      refine iff_of_true rfl (.inl ?_)
      have hzero : opField cmd = 0 ↔ (opField cmd).toNat = 0 := BitVec.toNat_eq
      grind

/-! ### Transactions -/

theorem withoutOperand_eq_ok {i j : Instr} {t : Transaction} :
    withoutOperand i t = .ok j ↔ i = j ∧ t.len = none ∧ t.data = [] := by
  unfold withoutOperand
  split <;> simp_all

/-- R85: INIT is its header word alone. -/
theorem encode_initOf (alg : Alg) : encode (.initOf alg) = ⟨headerWord (.initOf alg), none, []⟩ := by
  cases alg <;> rfl

theorem wellFormed_initOf (alg : Alg) : (Instr.initOf alg).wellFormed = true := by cases alg <;> rfl

theorem decode_init {t : Transaction} {alg : Alg} (h : decodeHeader t.cmd = some (.init alg)) :
    decode t = withoutOperand (.initOf alg) t := by
  simp [decode, h]

theorem decode_reset {t : Transaction} (h : decodeHeader t.cmd = some .reset) : decode t = withoutOperand .reset t := by
  simp [decode, h]

theorem decode_final {t : Transaction} (h : decodeHeader t.cmd = some .final) : decode t = withoutOperand .final t := by
  simp [decode, h]

/-- R90: UPDATE is taken where LEN counts the data. -/
theorem decode_update {cmd : BitVec 32} (h : decodeHeader cmd = some .update) (n : BitVec 64) (data : List Byte) :
    decode ⟨cmd, some n, data⟩ = if n.toNat = data.length then .ok (.update data) else .error .lenMismatch := by
  simp [decode, h]

theorem decode_update_noLen {cmd : BitVec 32} (h : decodeHeader cmd = some .update) (data : List Byte) :
    decode ⟨cmd, none, data⟩ = .error .lenMismatch := by
  simp [decode, h]

/-- R88: a reserved header is rejected whatever follows it. -/
theorem decode_reserved {t : Transaction} (h : decodeHeader t.cmd = none) : decode t = .error .reservedEncoding := by
  simp [decode, h]

/-- R84: below 2^64 bytes LEN holds the byte count. -/
theorem decode_encode {i : Instr} (hi : i.wellFormed = true) : decode (encode i) = .ok i := by
  rcases Machine.instr_cases i with ⟨alg, rfl⟩ | rfl | ⟨data, rfl⟩ | rfl
  · rw [encode_initOf, decode_init (decodeHeader_word (.init alg)), withoutOperand_eq_ok]
    exact ⟨rfl, rfl, rfl⟩
  · exact (decode_reset (decodeHeader_word .reset)).trans rfl
  · have hlen : data.length < 2 ^ 64 := of_decide_eq_true hi
    have hfit : (BitVec.ofNat 64 data.length).toNat = data.length := Nat.mod_eq_of_lt hlen
    exact (decode_update (decodeHeader_word .update) _ data).trans (if_pos hfit)
  · exact (decode_final (decodeHeader_word .final)).trans rfl

/-- A transaction without operand is its header, and a header word is its command's (R85, R87). -/
theorem encode_eq_of_withoutOperand {i j : Instr} {t : Transaction} {h : Header} (hw : decodeHeader t.cmd = some h)
    (henc : encode i = ⟨h.word, none, []⟩) (hdec : withoutOperand i t = .ok j) : i = j ∧ encode i = t := by
  obtain ⟨hij, hlen, hdata⟩ := withoutOperand_eq_ok.mp hdec
  refine ⟨hij, ?_⟩
  rw [henc, ← decodeHeader_eq_some.mp hw, ← hlen, ← hdata]

/-- R80, R87: no bit of a transaction the decoder takes is free. -/
theorem encode_of_decode {t : Transaction} {i : Instr} (hdec : decode t = .ok i) : i.wellFormed = true ∧ encode i = t := by
  cases hw : decodeHeader t.cmd with
  | none => rw [decode_reserved hw] at hdec; cases hdec
  | some h =>
    cases h with
    | init alg =>
      rw [decode_init hw] at hdec
      obtain ⟨rfl, henc⟩ := encode_eq_of_withoutOperand hw (encode_initOf alg) hdec
      exact ⟨wellFormed_initOf alg, henc⟩
    | reset =>
      rw [decode_reset hw] at hdec
      obtain ⟨rfl, henc⟩ := encode_eq_of_withoutOperand hw rfl hdec
      exact ⟨rfl, henc⟩
    | final =>
      rw [decode_final hw] at hdec
      obtain ⟨rfl, henc⟩ := encode_eq_of_withoutOperand hw rfl hdec
      exact ⟨rfl, henc⟩
    | update =>
      obtain ⟨cmd, len, data⟩ := t
      cases len with
      | none => rw [decode_update_noLen hw] at hdec; cases hdec
      | some n =>
        rw [decode_update hw] at hdec
        split at hdec
        case isFalse => cases hdec
        case isTrue hcount =>
          cases hdec
          have hword : cmd = headerWord (.update data) := decodeHeader_eq_some.mp hw
          refine ⟨decide_eq_true (hcount ▸ n.isLt), ?_⟩
          simp [encode, hword, ← hcount]

end Sys2Proof

namespace Sys2Proof.Machine

theorem transact_of_error {tr : Transaction} {e : DecodeError} (h : decode tr = .error e) (s : State) :
    transact tr s = rejected e := by
  simp [transact, h]

/-- Settles O2: the two directions, each by the four forms of a command or of a header. -/
theorem decodeEncodeInverse : Obligations.DecodeEncodeInverse :=
  ⟨fun _ => decode_encode, fun _ _ => encode_of_decode⟩

/-- Settles O1: the table by `Header.word`, the reserved set field by field. -/
theorem headerLegalExactlyInTable : Obligations.HeaderLegalExactlyInTable := by
  refine fun cmd => ⟨fun h => decodeHeader_eq_some.trans mem_opcodeTable.symm, decodeHeader_eq_none, ?_⟩
  intro hres s len data rest hb
  rw [step_of_inbox_cons hb, transact_of_error (decode_reserved hres)]
  rfl

/-- Settles O3: the printed header words, evaluated, and UPDATE by the rule of R90. -/
theorem specWordsDecode : Obligations.SpecWordsDecode := by
  refine ⟨?_, ?_, ?_⟩
  · decide
  · decide
  · exact decode_update (decodeHeader_word .update) 2#64 [0x62#8, 0x63#8]

/-- Settles O4: what the decoder makes of an UPDATE header, run by a step. -/
theorem malformedUpdateRefused : Obligations.MalformedUpdateRefused := by
  have hw : decodeHeader 0x30000000#32 = some .update := decodeHeader_word .update
  refine ⟨fun s n data rest hb => ⟨fun hne => ?_, fun heq => ?_⟩, fun s data rest hb => ?_⟩
  · rw [step_of_inbox_cons hb, transact_of_error ((decode_update hw n data).trans (if_neg hne))]
    rfl
  · rw [step_of_inbox_cons hb, transact_of_decode ((decode_update hw n data).trans (if_pos heq))]
  · rw [step_of_inbox_cons hb, transact_of_error (decode_update_noLen hw data)]
    rfl

/-- Settles O37: each clause is read off the one form of the next state its command can have. -/
theorem oneResponsePerCommand : Obligations.OneResponsePerCommand := by
  intro i s t h
  rcases exec_next_cases h with ⟨alg, rfl, rfl⟩ | ⟨rfl, -, rfl⟩ | ⟨data, rfl, -, hover, rfl⟩ |
    ⟨data, rfl, -, hle, -, rfl⟩ | ⟨rfl, -, -, rfl⟩
  · simp
  · simp
  · simpa [lengthLimit] using hover
  · simpa [lengthLimit] using hle
  · simp [finish_outbox, length_getDigest]

end Sys2Proof.Machine

/-! PROOFS of O23, O24, O33, O34, O27 and O29. Each command as one equation for each case of the lifecycle table and of the
length test, the new message of INIT and RESET, and the room test of FINAL. -/

namespace Sys2Proof.Machine

open Sys2Proof.Statements

/-! ### A new message -/

/-- R101, R102, R36: what INIT and RESET leave is a new message, whatever they found. -/
theorem startMessage_fresh (s : State) : FreshMessage s.alg s.alg.iv s s.startMessage :=
  ⟨by simp, by simp, by simp, fun _ => readByte_startMessage s, by simp, by simp, by simp, by simp, by simp⟩

theorem initialise_fresh (s : State) (alg : Alg) : FreshMessage alg alg.iv s (s.initialise alg) :=
  startMessage_fresh (s.setAlg alg)

/-- Settles O23: INIT is `initialise` in every state, and the initial vectors of the rules are those of `Alg.iv`. -/
theorem initStartsMessage64 : Obligations.InitStartsMessage64 := fun s =>
  ⟨⟨_, exec_initOf .sha384 s, initialise_fresh s .sha384⟩, ⟨_, exec_initOf .sha512 s, initialise_fresh s .sha512⟩⟩

/-- Settles O24: RESET starts the message that INIT of the current algorithm starts. -/
theorem resetIsInitOfCurrentAlg : Obligations.ResetIsInitOfCurrentAlg := fun s =>
  ⟨fun hl => ⟨_, _, exec_reset_configured hl, exec_initOf s.alg s, startMessage_fresh s, initialise_fresh s s.alg⟩,
    exec_reset_unconfigured⟩

/-! ### UPDATE and FINAL in READY -/

/-- R104: the length test refuses, whatever OFF is. -/
theorem exec_update_of_overflow {s : State} {data : List Byte} (hl : s.life = .ready)
    (h : lengthLimit < s.mlen.toNat + data.length) : exec (.update data) s = .next s.raiseLengthOverflow := by
  rw [exec_update_ready hl, if_pos h]

/-- R103, R104: the length test passes, and every byte has its place in the Block. -/
theorem exec_update_of_le {s : State} {data : List Byte} (hl : s.life = .ready)
    (h : s.mlen.toNat + data.length ≤ lengthLimit) (ho : data = [] ∨ s.off < s.alg.blockBytes) :
    exec (.update data) s = .next (s.accept data) := by
  have hin : ¬ (data ≠ [] ∧ s.alg.blockBytes ≤ s.off) := by
    rintro ⟨hne, hout⟩
    exact ho.elim hne (by omega)
  rw [exec_update_ready hl, if_neg (by omega), if_neg hin]

theorem exec_final_of_off_lt {s : State} (hl : s.life = .ready) (ho : s.off < s.alg.blockBytes) :
    exec .final s = .next s.finish := by
  rw [exec_final_ready hl, if_pos ho]

/-- R107: an empty UPDATE leaves every register as it was. -/
theorem accept_nil_sameRegisters (s : State) : SameRegisters s (s.accept []) := by
  simp [SameRegisters, absorb_nil]

/-- Settles O27: each clause is one side of the length test. -/
theorem updateLengthCases : Obligations.UpdateLengthCases := by
  intro s hl
  have refused (data : List Byte) (h : lengthLimit < s.mlen.toNat + data.length) :
      ∃ t, exec (.update data) s = .next t ∧ t.life = .failed ∧ t.outbox = s.outbox ++ [.result false] :=
    ⟨_, exec_update_of_overflow hl h, rfl, rfl⟩
  unfold lengthLimit at refused
  refine ⟨fun hle => ?_, fun data ho hsum => ?_, fun data hsum => refused data (by omega),
    fun data hlen => refused data (by omega)⟩
  · exact ⟨_, exec_update_of_le hl hle (.inl rfl), accept_nil_sameRegisters s, State.accept_outbox s []⟩
  · have hle : s.mlen.toNat + data.length ≤ lengthLimit := Nat.le_of_eq hsum
    exact ⟨_, exec_update_of_le hl hle (.inr ho), by simp [hl], by simp, by rw [accept_mlen_toNat hle, hsum]⟩

/-! ### The lifecycle table -/

/-- R118: UPDATE in READY answers, on either side of the length test. -/
theorem exec_update_ready_next {s : State} (hl : s.life = .ready) (ho : s.off < s.alg.blockBytes) (data : List Byte) :
    exec (.update data) s = .next s.raiseLengthOverflow ∨ exec (.update data) s = .next (s.accept data) := by
  rcases Nat.lt_or_ge lengthLimit (s.mlen.toNat + data.length) with h | h
  · exact .inl (exec_update_of_overflow hl h)
  · exact .inr (exec_update_of_le hl h (.inr ho))

/-- Settles O33: a cell is the equation of its command in its LIFE state. -/
theorem lifecycleTable : Obligations.LifecycleTable := by
  intro s
  have reset (hl : s.life ≠ .unconfigured) : ∃ t, exec .reset s = .next t ∧ t.life = .ready :=
    ⟨_, exec_reset_configured hl, State.startMessage_life s⟩
  refine ⟨fun alg => ⟨_, exec_initOf alg s, State.initialise_life s alg⟩, fun hl => ?_, fun hl ho => ?_, fun hl => ?_,
    fun hl => ?_⟩
  · exact ⟨exec_reset_unconfigured hl, exec_update_of_fault (by rw [hl]; rfl), exec_final_of_fault (by rw [hl]; rfl)⟩
  · refine ⟨reset (by rw [hl]; decide), fun data => ?_, _, exec_final_of_off_lt hl ho, State.finish_life s⟩
    rcases exec_update_ready_next hl ho data with h | h
    · exact ⟨_, h, .inr ⟨rfl, rfl⟩⟩
    · exact ⟨_, h, .inl ⟨by simp [hl], by simp⟩⟩
  · exact ⟨reset (by rw [hl]; decide), exec_update_of_fault (by rw [hl]; rfl), exec_final_of_fault (by rw [hl]; rfl)⟩
  · exact ⟨reset (by rw [hl]; decide), exec_update_of_fault (by rw [hl]; rfl), exec_final_of_fault (by rw [hl]; rfl)⟩

@[simp] theorem Life.allows_initOf (l : Life) (alg : Alg) : l.allows (.initOf alg) = true := by
  cases alg <;> rfl

theorem resetFault_eq_none {l : Life} : l.resetFault = none ↔ l ≠ .unconfigured := by
  cases l <;> simp [Life.resetFault]

/-- R118: a command the table defines answers a next state where OFF lies in the Block (R28). -/
theorem exec_next_of_allows {i : Instr} {s : State} (ho : s.life = .ready → s.off < s.alg.blockBytes)
    (h : s.life.allows i = true) : ∃ t, exec i s = .next t := by
  rcases instr_cases i with ⟨alg, rfl⟩ | rfl | ⟨data, rfl⟩ | rfl
  · exact ⟨_, exec_initOf alg s⟩
  · exact ⟨_, exec_reset_configured (resetFault_eq_none.mp (of_decide_eq_true h))⟩
  · have hl := updateFault_eq_none.mp (of_decide_eq_true h)
    rcases exec_update_ready_next hl (ho hl) data with hnext | hnext
    · exact ⟨_, hnext⟩
    · exact ⟨_, hnext⟩
  · have hl := finalFault_eq_none.mp (of_decide_eq_true h)
    exact ⟨_, exec_final_of_off_lt hl (ho hl)⟩

/-- R302, R306 to R308: the faults of the lifecycle table, each with the LIFE state it belongs to. -/
def Life.TableFault (l : Life) (f : Fault) : Prop :=
  f = .frNoAlg ∧ l = .unconfigured ∨ f = .frUpdateAfterFinal ∧ l = .finalized ∨
    f = .frFinalAfterFinal ∧ l = .finalized ∨ f = .frUseAfterFail ∧ l = .failed

theorem tableFault_of_updateFault {l : Life} {f : Fault} (h : l.updateFault = some f) : l.TableFault f := by
  cases l <;> cases h <;> simp [Life.TableFault]

theorem tableFault_of_finalFault {l : Life} {f : Fault} (h : l.finalFault = some f) : l.TableFault f := by
  cases l <;> cases h <;> simp [Life.TableFault]

/-- R118: a command the table does not define is a fault of the table. -/
theorem exec_fault_of_not_allows {i : Instr} {s : State} (h : s.life.allows i = false) :
    ∃ f, exec i s = .fault f ∧ s.life.TableFault f := by
  rcases instr_cases i with ⟨alg, rfl⟩ | rfl | ⟨data, rfl⟩ | rfl
  · simp at h
  · have hl : s.life = .unconfigured := not_not.mp fun hne => of_decide_eq_false h (resetFault_eq_none.mpr hne)
    exact ⟨_, exec_reset_unconfigured hl, .inl ⟨rfl, hl⟩⟩
  · obtain ⟨f, hf⟩ := Option.ne_none_iff_exists'.mp (of_decide_eq_false h)
    exact ⟨f, exec_update_of_fault hf data, tableFault_of_updateFault hf⟩
  · obtain ⟨f, hf⟩ := Option.ne_none_iff_exists'.mp (of_decide_eq_false h)
    exact ⟨f, exec_final_of_fault hf, tableFault_of_finalFault hf⟩

/-- Settles O34: the table's two halves exclude each other, for a fault is no next state. -/
theorem commandsRunExactlyWhereDefined : Obligations.CommandsRunExactlyWhereDefined := by
  refine fun i s hs => ⟨⟨fun ⟨t, ht⟩ => ?_, exec_next_of_allows hs.off_lt⟩, exec_fault_of_not_allows⟩
  by_contra hn
  obtain ⟨f, hf, -⟩ := exec_fault_of_not_allows (Bool.eq_false_of_not_eq_true hn)
  rw [hf] at ht
  cases ht

/-! ### The room test -/

/-- R7: F is 8 but for the 64-bit algorithms under FIPS16. -/
theorem lengthBytes_of_32 {alg : Alg} (hw : alg.wordBits = 32) (cfg : Config) : alg.lengthBytes cfg = 8 := by
  simp [Alg.lengthBytes, hw]

theorem lengthBytes_of_ref8 {cfg : Config} (hc : cfg.lenField64 = .ref8) (alg : Alg) : alg.lengthBytes cfg = 8 := by
  simp [Alg.lengthBytes, hc]

theorem lengthBytes_of_fips16 {alg : Alg} {cfg : Config} (hw : alg.wordBits = 64) (hc : cfg.lenField64 = .fips16) :
    alg.lengthBytes cfg = 16 := by
  simp [Alg.lengthBytes, hw, hc]

theorem hasRoom_iff (s : State) : s.hasRoom = true ↔ s.off + 1 + s.alg.lengthBytes s.cfg ≤ s.alg.blockBytes := by
  simp [State.hasRoom]

/-- Settles O29: the sizes B and F of each case, put into the room test. -/
theorem roomTestTable : Obligations.RoomTestTable := by
  intro s
  have hB := wordBits_mul_two s.alg
  refine ⟨hasRoom_iff s, fun hw => ?_, fun hw hc => ?_, fun hw hc => ?_⟩
  · rw [hasRoom_iff, lengthBytes_of_32 hw]
    omega
  · rw [hasRoom_iff, lengthBytes_of_ref8 hc]
    omega
  · rw [hasRoom_iff, lengthBytes_of_fips16 hw hc]
    omega

end Sys2Proof.Machine

/-! PROOFS of O25 and O28. UPDATE from the invariant, by the byte loop of Laws/Message.lean; and the Blocks FINAL
compresses, read back as byte sequences. -/

namespace Sys2Proof.Machine

open Sys2Proof.Statements

/-! ### UPDATE -/

/-- Less than one Block is not compressed (R106). -/
theorem processBlocks_of_length_lt {alg : Alg} {bytes : List Byte} (hlt : bytes.length < alg.blockBytes) (h : Chain) :
    processBlocks alg h bytes = h := by
  simp [processBlocks, Nat.div_eq_of_lt hlt]

theorem blockTail_of_length_lt {b : Nat} {bytes : List Byte} (hlt : bytes.length < b) : blockTail b bytes = bytes := by
  simp [blockTail, Nat.div_eq_of_lt hlt]

theorem length_pending (s : State) : (pending s).length = s.off := length_memRead s 0 s.off

/-- R28, R30, R32: in READY the Block is the pending bytes with zeros above them. -/
theorem readByte_eq_getD_pending {s : State} (hz : s.TailZero) {a : Nat} (ha : a < s.alg.blockBytes) :
    s.readByte a = (pending s).getD a 0 := by
  rcases Nat.lt_or_ge a s.off with hlt | hge
  · unfold pending
    rw [List.getD_eq_getElem _ _ (by rwa [length_memRead]), getElem_memRead, Nat.zero_add]
  · rw [hz a hge ha, List.getD_eq_default _ _ (by rwa [length_pending])]

/-- Counted from the last Block boundary, the engine in READY has absorbed the pending bytes. -/
theorem State.Inv.holds_pending {s : State} (hs : s.Inv) (hl : s.life = .ready) : s.Holds s.chain (pending s) := by
  have hlt : (pending s).length < s.alg.blockBytes := by
    rw [length_pending]
    exact hs.off_lt hl
  refine ⟨hs.toBlockWf, ?_, (processBlocks_of_length_lt hlt _).symm, fun a ha => ?_⟩
  · rw [Nat.mod_eq_of_lt hlt, length_pending]
  · rw [blockTail_of_length_lt hlt]
    exact readByte_eq_getD_pending (hs.tail_zero hl) ha

/-- R103: MLEN and the response are no part of what the engine holds. -/
theorem State.Holds.accept {s : State} {h : Chain} {bytes : List Byte} (hs : s.Holds h bytes) (data : List Byte) :
    (s.accept data).Holds h (bytes ++ data) :=
  have habs := hs.absorb data
  ⟨habs.wf.congr rfl rfl, habs.off_eq, habs.chain_eq, habs.block_eq⟩

/-- Settles O25: what the engine holds after the pending bytes and the data. -/
theorem acceptedUpdateAbsorbs : Obligations.AcceptedUpdateAbsorbs := by
  intro s data hs hl hle
  have hholds := (hs.holds_pending hl).accept data
  have hlen : (pending s ++ data).length = s.off + data.length := by rw [List.length_append, length_pending]
  refine ⟨s.accept data, exec_update_of_le hl hle (.inr (hs.off_lt hl)), by simp [hl], by simp, by simp, by simp, by simp,
    accept_mlen_toNat hle, ?_, ?_, fun a ha => ?_⟩
  · simpa [hlen] using hholds.off_eq
  · simpa using hholds.chain_eq
  · simpa [blockTail, hlen] using hholds.block_eq a (by simpa using ha)

/-! ### The Blocks of FINAL as byte sequences -/

theorem memRead_add (s : State) (a m n : Nat) : s.memRead a (m + n) = s.memRead a m ++ s.memRead (a + m) n := by
  simp [State.memRead, List.range_add, Nat.add_assoc]

theorem memRead_eq_zeros {s : State} {a n : Nat} (h : ∀ j, j < n → s.readByte (a + j) = 0) : s.memRead a n = zeros n := by
  refine List.eq_replicate_iff.mpr ⟨length_memRead s a n, fun b hb => ?_⟩
  obtain ⟨j, hj, rfl⟩ := List.mem_map.mp hb
  exact h j (List.mem_range.mp hj)

/-- R111: the padded Block up to an address above OFF. -/
theorem memRead_pad {s : State} (hwf : s.BlockWf) {n : Nat} (ho : s.off < n) (hn : n ≤ s.alg.blockBytes) :
    s.pad.memRead 0 n = pending s ++ [0x80] ++ zeros (n - (s.off + 1)) := by
  have hpad {a : Nat} (ha : a < n) := readByte_pad hwf (a := a) (by omega) (by omega)
  have hn' : n = s.off + 1 + (n - (s.off + 1)) := by omega
  have htail : s.pad.memRead 0 s.off = pending s :=
    memRead_congr fun j hj => by rw [hpad (by omega), if_pos (by omega)]
  have hmarker : s.pad.readByte (0 + s.off) = 0x80 := by rw [hpad (by omega), if_neg (by omega), if_pos (by omega)]
  have hzeros : s.pad.memRead (0 + (s.off + 1)) (n - (s.off + 1)) = zeros (n - (s.off + 1)) :=
    memRead_eq_zeros fun j hj => by rw [hpad (by omega), if_neg (by omega), if_neg (by omega)]
  conv_lhs => rw [hn', memRead_add, memRead_succ, htail, hmarker, hzeros]

/-- R138: the Block ends with the length field. -/
theorem memRead_setMsgSize {s : State} (hwf : s.BlockWf) (bits : Nat) :
    (s.setMsgSize bits).memRead 0 s.alg.blockBytes =
      s.memRead 0 (s.alg.blockBytes - s.alg.lengthBytes s.cfg) ++
        toBytes s.alg.byteOrder (s.alg.lengthBytes s.cfg) (bits % 2 ^ (8 * s.alg.lengthBytes s.cfg)) := by
  obtain ⟨-, -, hFB⟩ := lengthBytes_bounds s.alg s.cfg
  have hset {a : Nat} (ha : a < s.alg.blockBytes) := readByte_setMsgSize hwf bits ha
  have hfront : (s.setMsgSize bits).memRead 0 (s.alg.blockBytes - s.alg.lengthBytes s.cfg) =
      s.memRead 0 (s.alg.blockBytes - s.alg.lengthBytes s.cfg) :=
    memRead_congr fun j hj => by rw [hset (by omega), if_pos (by omega)]
  have hfield := memRead_eq_list (s := s.setMsgSize bits) (a := 0 + (s.alg.blockBytes - s.alg.lengthBytes s.cfg))
    (l := toBytes s.alg.byteOrder (s.alg.lengthBytes s.cfg) (bits % 2 ^ (8 * s.alg.lengthBytes s.cfg)))
    fun j hj => by
      rw [length_toBytes] at hj
      rw [hset (by omega), if_neg (by omega), Nat.zero_add, Nat.add_sub_cancel_left]
  rw [length_toBytes] at hfield
  conv_lhs => rw [← Nat.sub_add_cancel hFB, memRead_add, hfront, hfield]

theorem memRead_compress (s : State) {n : Nat} (hn : n ≤ s.alg.blockBytes) : s.compress.memRead 0 n = zeros n :=
  memRead_eq_zeros fun _ hj => readByte_compress s (by omega)

/-! ### FINAL -/

/-- R113: one compression where marker and length field fit. -/
theorem chain_finish_of_room {s : State} (hwf : s.BlockWf) (ho : s.off < s.alg.blockBytes)
    (hroom : s.off + 1 + s.alg.lengthBytes s.cfg ≤ s.alg.blockBytes) :
    s.finish.chain = process s.alg s.chain
      (pending s ++ [0x80] ++ zeros (s.alg.blockBytes - (s.off + 1 + s.alg.lengthBytes s.cfg)) ++ lengthField s) := by
  have hF := lengthBytes_bounds s.alg s.cfg
  have hblock := memRead_setMsgSize (pad_wf hwf ho) (8 * s.mlen.toNat)
  simp only [State.pad_alg, State.pad_cfg] at hblock
  rw [memRead_pad hwf (by omega) (Nat.sub_le _ _), Nat.sub_sub, Nat.add_comm (s.alg.lengthBytes s.cfg)] at hblock
  rw [chain_finish, padAndCompress_of_room hroom, chain_compress]
  simp [hblock, lengthField]

/-- R114: two compressions where they do not, the second of a Block that holds the length field alone. -/
theorem chain_finish_of_no_room {s : State} (hwf : s.BlockWf) (ho : s.off < s.alg.blockBytes)
    (hroom : s.alg.blockBytes < s.off + 1 + s.alg.lengthBytes s.cfg) :
    s.finish.chain = process s.alg
      (process s.alg s.chain (pending s ++ [0x80] ++ zeros (s.alg.blockBytes - (s.off + 1))))
      (zeros (s.alg.blockBytes - s.alg.lengthBytes s.cfg) ++ lengthField s) := by
  have hfirst := memRead_pad hwf ho (Nat.le_refl _)
  have hsecond := memRead_setMsgSize (compress_wf s.pad) (8 * s.mlen.toNat)
  rw [memRead_compress _ (by simp)] at hsecond
  simp only [State.compress_alg, State.compress_cfg, State.pad_alg, State.pad_cfg] at hsecond
  rw [chain_finish, padAndCompress_of_no_room hroom, chain_compress]
  simp [hfirst, hsecond, lengthField]

/-- Settles O28: the state `finish` leaves, and its ChainingState on either side of the room test. -/
theorem finalPadsAndAnswers : Obligations.FinalPadsAndAnswers := by
  intro s hs hl
  have ho := hs.off_lt hl
  obtain ⟨-, hzero⟩ := padAndCompress_block s
  exact ⟨s.finish, exec_final_of_off_lt hl ho, by simp, by simp, by simp, by simp, by simp, by simp, hzero,
    finish_outbox s, by simp [length_getDigest], chain_finish_of_room hs.toBlockWf ho,
    chain_finish_of_no_room hs.toBlockWf ho⟩

end Sys2Proof.Machine

/-! PROOFS of O44, O43 and O42. The reference padding in Blocks; the engine in the middle of a message, command by command;
and from them the Digest of a whole message, which does not see how the message was split. -/

namespace Sys2Proof.Machine

open Sys2Proof.Statements

/-! ### The reference padding -/

@[simp] theorem length_zeros (n : Nat) : (zeros n).length = n := List.length_replicate

theorem zeros_add (m n : Nat) : zeros (m + n) = zeros m ++ zeros n := List.replicate_add m n 0

/-- What the padded message has after the message's own bytes: marker, zeros and length field (R111, R138). -/
def padding (alg : Alg) (cfg : Config) (n : Nat) : List Byte :=
  [0x80] ++ zeros (padZeros alg cfg (n % alg.blockBytes)) ++
    toBytes alg.byteOrder (alg.lengthBytes cfg) ((8 * n) % 2 ^ (8 * alg.lengthBytes cfg))

theorem paddedMessage_eq (alg : Alg) (cfg : Config) (msg : List Byte) :
    paddedMessage alg cfg msg = msg ++ padding alg cfg msg.length := by
  simp [paddedMessage, padding, zeros]

theorem length_padding (alg : Alg) (cfg : Config) (n : Nat) :
    (padding alg cfg n).length = 1 + padZeros alg cfg (n % alg.blockBytes) + alg.lengthBytes cfg := by
  simp only [padding, List.length_append, List.length_singleton, length_zeros, length_toBytes]

/-- R113: what is left of the marker's own Block. -/
theorem padZeros_of_room {alg : Alg} {cfg : Config} {tail : Nat}
    (h : tail + 1 + alg.lengthBytes cfg ≤ alg.blockBytes) :
    padZeros alg cfg tail = alg.blockBytes - (tail + 1 + alg.lengthBytes cfg) :=
  if_pos h

/-- R114: what is left of the marker's Block, and the next Block up to its length field. -/
theorem padZeros_of_no_room {alg : Alg} {cfg : Config} {tail : Nat} (ht : tail < alg.blockBytes)
    (h : alg.blockBytes < tail + 1 + alg.lengthBytes cfg) :
    padZeros alg cfg tail = alg.blockBytes - (tail + 1) + (alg.blockBytes - alg.lengthBytes cfg) := by
  obtain ⟨-, -, hFB⟩ := lengthBytes_bounds alg cfg
  have hzeros : padZeros alg cfg tail = 2 * alg.blockBytes - (tail + 1 + alg.lengthBytes cfg) := if_neg (by omega)
  omega

/-- R111, R112: the zeros end at the end of a Block, and are fewer than a Block. -/
theorem padZeros_fills (alg : Alg) (cfg : Config) {tail : Nat} (ht : tail < alg.blockBytes) :
    tail + (1 + padZeros alg cfg tail + alg.lengthBytes cfg) =
      alg.blockBytes * (if tail + 1 + alg.lengthBytes cfg ≤ alg.blockBytes then 1 else 2) ∧
    padZeros alg cfg tail < alg.blockBytes := by
  obtain ⟨-, -, hFB⟩ := lengthBytes_bounds alg cfg
  split
  · rename_i hroom
    rw [padZeros_of_room hroom]
    omega
  · rename_i hroom
    rw [padZeros_of_no_room ht (by omega)]
    omega

/-- Settles O44: the message's whole Blocks, and its tail with the padding. -/
theorem paddingFillsBlocks : Obligations.PaddingFillsBlocks := by
  intro alg cfg msg b f
  have htail : msg.length % b < b := Nat.mod_lt _ (blockBytes_pos alg)
  obtain ⟨hfills, hlt⟩ := padZeros_fills alg cfg htail
  have hdiv := Nat.div_add_mod msg.length b
  have hlen : (paddedMessage alg cfg msg).length = msg.length + (1 + padZeros alg cfg (msg.length % b) + f) := by
    rw [paddedMessage_eq, List.length_append, length_padding]
  refine ⟨?_, ?_, ?_, ?_⟩
  · rw [hlen, Nat.mul_add, ← hfills]
    omega
  · omega
  · omega
  · simp [paddedMessage_eq, padding, List.take_append]

/-! ### PROCESS of consecutive Blocks -/

theorem blockTail_append {b : Nat} (hb : 0 < b) (xs ys : List Byte) :
    blockTail b (xs ++ ys) = blockTail b (blockTail b xs ++ ys) := by
  have hdrop : (xs ++ ys).drop (b * (xs.length / b)) = blockTail b xs ++ ys :=
    List.drop_append_of_le_length (Nat.mul_div_le _ _)
  have hlen : (xs ++ ys).length = b * (xs.length / b) + (blockTail b xs ++ ys).length := by
    have := Nat.div_add_mod xs.length b
    rw [List.length_append, List.length_append, length_blockTail]
    omega
  conv_lhs => rw [blockTail, hlen, Nat.mul_add_div hb, Nat.mul_add, ← List.drop_drop, hdrop]
  rfl

/-- A sequence can be compressed up to its last Block boundary first, and the rest with what follows. -/
theorem processBlocks_append (alg : Alg) (h : Chain) (xs ys : List Byte) :
    processBlocks alg h (xs ++ ys) =
      processBlocks alg (processBlocks alg h xs) (blockTail alg.blockBytes xs ++ ys) := by
  have hB := blockBytes_pos alg
  induction ys using List.reverseRecOn with
  | nil =>
    have hlt : (blockTail alg.blockBytes xs).length < alg.blockBytes := by
      rw [length_blockTail]
      exact Nat.mod_lt _ hB
    rw [List.append_nil, List.append_nil, processBlocks_of_length_lt hlt]
  | append_singleton ys y ih =>
    have hmod : (blockTail alg.blockBytes xs ++ ys).length % alg.blockBytes = (xs ++ ys).length % alg.blockBytes := by
      rw [List.length_append, length_blockTail, Nat.mod_add_mod, ← List.length_append]
    rw [← List.append_assoc, ← List.append_assoc, processBlocks_concat, processBlocks_concat, hmod, ih,
      blockTail_append hB]

theorem processBlocks_of_length_eq {alg : Alg} {blk : List Byte} (hl : blk.length = alg.blockBytes) (h : Chain) :
    processBlocks alg h blk = process alg h blk := by
  simp [processBlocks, hl, Nat.div_self (blockBytes_pos alg), List.take_of_length_le (Nat.le_of_eq hl)]

/-- The first Block of a sequence. -/
theorem processBlocks_block_append {alg : Alg} {blk : List Byte} (hl : blk.length = alg.blockBytes) (h : Chain)
    (rest : List Byte) : processBlocks alg h (blk ++ rest) = processBlocks alg (process alg h blk) rest := by
  have htail : blockTail alg.blockBytes blk = [] := by
    rw [← List.length_eq_zero_iff, length_blockTail, hl, Nat.mod_self]
  rw [processBlocks_append, htail, List.nil_append, processBlocks_of_length_eq hl]

/-! ### The engine in the middle of a message -/

/-- R109 to R114: FINAL compresses the tail of the message with the reference padding. -/
theorem chain_finish_of_holds {s : State} {h : Chain} {bytes : List Byte} (hs : s.Holds h bytes)
    (hm : s.mlen.toNat = bytes.length) : s.finish.chain = processBlocks s.alg h (paddedMessage s.alg s.cfg bytes) := by
  have ho := hs.absorbing.off_lt
  obtain ⟨-, -, hFB⟩ := lengthBytes_bounds s.alg s.cfg
  have hfield : (lengthField s).length = s.alg.lengthBytes s.cfg := length_toBytes _ _ _
  have htail : blockTail s.alg.blockBytes bytes = pending s := hs.memRead_off.symm
  have hpadding : padding s.alg s.cfg bytes.length = [0x80] ++ zeros (padZeros s.alg s.cfg s.off) ++ lengthField s := by
    rw [padding, ← hs.off_eq, ← hm, lengthField]
  rw [paddedMessage_eq, processBlocks_append, ← hs.chain_eq, htail, hpadding]
  rcases Nat.lt_or_ge s.alg.blockBytes (s.off + 1 + s.alg.lengthBytes s.cfg) with hroom | hroom
  · have hfirst : (pending s ++ [0x80] ++ zeros (s.alg.blockBytes - (s.off + 1))).length = s.alg.blockBytes := by
      simp only [List.length_append, List.length_singleton, length_pending, length_zeros]
      omega
    have hsecond : (zeros (s.alg.blockBytes - s.alg.lengthBytes s.cfg) ++ lengthField s).length = s.alg.blockBytes := by
      rw [List.length_append, length_zeros, hfield, Nat.sub_add_cancel hFB]
    rw [chain_finish_of_no_room hs.wf ho hroom, padZeros_of_no_room ho hroom, zeros_add,
      ← processBlocks_of_length_eq hsecond, ← processBlocks_block_append hfirst]
    simp only [List.append_assoc]
  · have hblock : (pending s ++ [0x80] ++ zeros (s.alg.blockBytes - (s.off + 1 + s.alg.lengthBytes s.cfg)) ++
        lengthField s).length = s.alg.blockBytes := by
      simp only [List.length_append, List.length_singleton, length_pending, length_zeros, hfield]
      omega
    rw [chain_finish_of_room hs.wf ho hroom, padZeros_of_room hroom, ← processBlocks_of_length_eq hblock]
    simp only [List.append_assoc]

/-- The engine is READY in the middle of a message of which it has absorbed `bytes` (R36). -/
structure State.InMessage (s : State) (alg : Alg) (cfg : Config) (bytes : List Byte) : Prop where
  holds : s.Holds alg.iv bytes
  life_eq : s.life = .ready
  alg_eq : s.alg = alg
  cfg_eq : s.cfg = cfg
  mlen_eq : s.mlen.toNat = bytes.length

theorem initialise_inMessage (s : State) (alg : Alg) : (s.initialise alg).InMessage alg s.cfg [] where
  holds := initialise_holds s alg
  life_eq := by simp
  alg_eq := by simp
  cfg_eq := by simp
  mlen_eq := by simp

namespace State.InMessage

variable {s : State} {alg : Alg} {cfg : Config} {bytes : List Byte}

/-- R103, R105: UPDATE takes the message on by its data. -/
theorem accept (hs : s.InMessage alg cfg bytes) {data : List Byte} (hle : (bytes ++ data).length ≤ lengthLimit) :
    (s.accept data).InMessage alg cfg (bytes ++ data) where
  holds := hs.holds.accept data
  life_eq := by simpa using hs.life_eq
  alg_eq := by simpa using hs.alg_eq
  cfg_eq := by simpa using hs.cfg_eq
  mlen_eq := by
    rw [List.length_append, ← hs.mlen_eq] at hle ⊢
    exact accept_mlen_toNat hle

theorem exec_update (hs : s.InMessage alg cfg bytes) {data : List Byte} (hle : (bytes ++ data).length ≤ lengthLimit) :
    exec (.update data) s = .next (s.accept data) := by
  rw [List.length_append, ← hs.mlen_eq] at hle
  exact exec_update_of_le hs.life_eq hle (.inr hs.holds.absorbing.off_lt)

theorem exec_final (hs : s.InMessage alg cfg bytes) : exec .final s = .next s.finish :=
  exec_final_of_off_lt hs.life_eq hs.holds.absorbing.off_lt

/-- R115, R140: the Digest FINAL answers is the reference's. -/
theorem getDigest_finish (hs : s.InMessage alg cfg bytes) : s.finish.getDigest = digestOf alg cfg bytes := by
  rw [State.getDigest, chain_finish_of_holds hs.holds hs.mlen_eq, State.finish_alg, hs.alg_eq, hs.cfg_eq, digestOf]

end State.InMessage

/-! ### Sequences of commands -/

/-- R62: the first command of a sequence is run first. -/
theorem execAll_cons {i : Instr} {s t : State} (h : exec i s = .next t) (is : List Instr) :
    execAll (i :: is) s = execAll is t := by
  simp [execAll, h]

/-- R119: UPDATEs one after the other absorb their data one after the other, and each answers RESULT = 1. -/
theorem execAll_updates {s : State} {alg : Alg} {cfg : Config} {bytes : List Byte} (hs : s.InMessage alg cfg bytes)
    (chunks : List (List Byte)) (hle : (bytes ++ chunks.flatten).length ≤ lengthLimit) (rest : List Instr) :
    ∃ t, execAll (chunks.map .update ++ rest) s = execAll rest t ∧ t.InMessage alg cfg (bytes ++ chunks.flatten) ∧
      t.outbox = s.outbox ++ List.replicate chunks.length (.result true) := by
  induction chunks generalizing s bytes with
  | nil => exact ⟨s, rfl, by simpa using hs, by simp⟩
  | cons data chunks ih =>
    rw [List.flatten_cons, ← List.append_assoc] at hle ⊢
    have hdata : (bytes ++ data).length ≤ lengthLimit := by
      rw [List.length_append] at hle
      omega
    obtain ⟨t, hexec, ht, hout⟩ := ih (hs.accept hdata) hle
    refine ⟨t, ?_, ht, ?_⟩
    · rw [List.map_cons, List.cons_append, execAll_cons (hs.exec_update hdata), hexec]
    · rw [hout, State.accept_outbox, List.length_cons, List.replicate_succ, List.append_assoc, List.singleton_append]

/-- Settles O43: INIT opens the message, the UPDATEs absorb it, and FINAL compresses it with the reference padding. -/
theorem engineComputesReferenceDigest : Obligations.EngineComputesReferenceDigest := by
  intro s alg chunks hle
  obtain ⟨t, hexec, ht, hout⟩ := execAll_updates (initialise_inMessage s alg) chunks hle [.final]
  rw [List.nil_append] at ht
  refine ⟨t.finish, ?_, State.finish_life t, by simp [ht.alg_eq], by simp [ht.mlen_eq], ?_⟩
  · rw [List.append_assoc, List.singleton_append, execAll_cons (exec_initOf alg s), hexec, execAll_cons ht.exec_final]
    rfl
  · rw [finish_outbox, hout, State.initialise_outbox, ht.getDigest_finish]

/-- Settles O42: both runs answer the reference Digest of the whole message, which is one chunk of itself. -/
theorem streamingEquivalence : Obligations.StreamingEquivalence := by
  intro s alg chunks hle
  have hone : [chunks.flatten].flatten = chunks.flatten := by simp
  obtain ⟨t, hsplit, -, -, -, houtSplit⟩ := engineComputesReferenceDigest s alg chunks hle
  obtain ⟨u, hwhole, -, -, -, houtWhole⟩ := engineComputesReferenceDigest s alg [chunks.flatten] (by rwa [hone])
  rw [hone] at houtWhole
  exact ⟨t, u, _, hsplit, houtSplit, hwhole, by simpa using houtWhole⟩

end Sys2Proof.Machine

/-! PROOFS of O31, O22, O20 and O21. The length field read back as message words, by cutting its bytes into two words; INIT of
the 32-bit algorithms; the table of the compression families; and the constant tables against the list of primes. -/

namespace Sys2Proof.Machine

open Sys2Proof.Statements

/-! ### Bytes of a number, in two parts and read back -/

/-- Reading back the n bytes of a number keeps it mod 2^(8n) (R12). -/
theorem fromBytes_toBytes (ord : ByteOrder) (n v : Nat) : fromBytes ord (toBytes ord n v) = v % 2 ^ (8 * n) := by
  rw [Nat.pow_mul]
  cases ord with
  | little => exact fromLE_toLE n v
  | big => simpa [fromBytes, fromBE, toBytes, toBE] using fromLE_toLE n v

/-- In little-endian order the low bytes stand first. -/
theorem toLE_add (m n v : Nat) : toLE (m + n) v = toLE m v ++ toLE n (v / 2 ^ (8 * m)) := by
  induction m generalizing v with
  | zero => simp [toLE]
  | succ m ih =>
    have hdiv : v / 256 / 2 ^ (8 * m) = v / 2 ^ (8 * (m + 1)) := by
      rw [Nat.div_div_eq_div_mul, Nat.mul_succ, Nat.pow_add, Nat.mul_comm]
    rw [Nat.succ_add, toLE, toLE, ih, hdiv, List.cons_append]

/-- In big-endian order the high bytes stand first. -/
theorem toBE_add (m n v : Nat) : toBE (m + n) v = toBE n (v / 2 ^ (8 * m)) ++ toBE m v := by
  rw [toBE, toLE_add, List.reverse_append, toBE, toBE]

/-- The high word of a stored value of two words is its quotient. -/
theorem lengthValue_div_mod {f n bits : Nat} (hf : f = n + n) :
    bits % 2 ^ (8 * f) / 2 ^ (8 * n) % 2 ^ (8 * n) = bits % 2 ^ (8 * f) / 2 ^ (8 * n) := by
  apply Nat.mod_eq_of_lt
  rw [Nat.div_lt_iff_lt_mul (by positivity), ← Nat.pow_add, ← Nat.mul_add, ← hf]
  exact Nat.mod_lt _ (by positivity)

/-! ### The length field as message words -/

section

variable {s : State} (hwf : s.BlockWf) (bits : Nat)
include hwf

/-- R138: the last F bytes of the Block are the length field. -/
theorem memRead_lengthField :
    (s.setMsgSize bits).memRead (s.alg.blockBytes - s.alg.lengthBytes s.cfg) (s.alg.lengthBytes s.cfg) =
      toBytes s.alg.byteOrder (s.alg.lengthBytes s.cfg) (bits % 2 ^ (8 * s.alg.lengthBytes s.cfg)) := by
  obtain ⟨-, -, hFB⟩ := lengthBytes_bounds s.alg s.cfg
  have hblock := memRead_setMsgSize hwf bits
  rw [← Nat.sub_add_cancel hFB, memRead_add, Nat.add_sub_cancel, Nat.zero_add] at hblock
  exact List.append_inj_right hblock (by simp)

/-- R138: below the length field the Block is as it was. -/
theorem memRead_setMsgSize_below {a n : Nat} (h : a + n ≤ s.alg.blockBytes - s.alg.lengthBytes s.cfg) :
    (s.setMsgSize bits).memRead a n = s.memRead a n :=
  memRead_congr fun j hj => by rw [readByte_setMsgSize hwf bits (by omega), if_pos (by omega)]

/-- A length field of two words is the last two message words. -/
theorem toNat_lengthWords {n : Nat} {xs ys : List Byte} (hB : n * 16 = s.alg.blockBytes)
    (hF : s.alg.lengthBytes s.cfg = n + n) (hn : xs.length = n)
    (hfield : toBytes s.alg.byteOrder (n + n) (bits % 2 ^ (8 * s.alg.lengthBytes s.cfg)) = xs ++ ys) :
    let words := messageWords (8 * n) n s.alg.byteOrder ((s.setMsgSize bits).memRead 0 s.alg.blockBytes)
    (words.getD 14 0).toNat = fromBytes s.alg.byteOrder xs ∧ (words.getD 15 0).toNat = fromBytes s.alg.byteOrder ys := by
  have hmem := memRead_lengthField hwf bits
  have haddr : s.alg.blockBytes - (n + n) = n * 14 := by omega
  have hnext : n * 14 + n = n * 15 := (Nat.mul_succ n 14).symm
  rw [hF] at hmem hfield
  rw [hfield, memRead_add, haddr, hnext] at hmem
  obtain ⟨hxs, hys⟩ := List.append_inj hmem (by rw [length_memRead, hn])
  exact ⟨by rw [toNat_messageWord _ _ (by omega) hB, hxs], by rw [toNat_messageWord _ _ (by omega) hB, hys]⟩

/-- R139, MD4 and MD5: the low word first. -/
theorem toNat_lengthWords_little {n : Nat} (hord : s.alg.byteOrder = .little) (hB : n * 16 = s.alg.blockBytes)
    (hF : s.alg.lengthBytes s.cfg = n + n) :
    let words := messageWords (8 * n) n .little ((s.setMsgSize bits).memRead 0 s.alg.blockBytes)
    let v := bits % 2 ^ (8 * s.alg.lengthBytes s.cfg)
    (words.getD 14 0).toNat = v % 2 ^ (8 * n) ∧ (words.getD 15 0).toNat = v / 2 ^ (8 * n) := by
  intro words v
  have hwords := toNat_lengthWords hwf bits hB hF (length_toLE n v) (by rw [hord]; exact toLE_add n n v)
  rw [hord] at hwords
  obtain ⟨hlow, hhigh⟩ := hwords
  exact ⟨hlow.trans (fromBytes_toBytes .little n v),
    hhigh.trans ((fromBytes_toBytes .little n _).trans (lengthValue_div_mod hF))⟩

/-- R139, the SHA algorithms whose length field has two words: the high word first. -/
theorem toNat_lengthWords_big {n : Nat} (hord : s.alg.byteOrder = .big) (hB : n * 16 = s.alg.blockBytes)
    (hF : s.alg.lengthBytes s.cfg = n + n) :
    let words := messageWords (8 * n) n .big ((s.setMsgSize bits).memRead 0 s.alg.blockBytes)
    let v := bits % 2 ^ (8 * s.alg.lengthBytes s.cfg)
    (words.getD 14 0).toNat = v / 2 ^ (8 * n) ∧ (words.getD 15 0).toNat = v % 2 ^ (8 * n) := by
  intro words v
  have hwords := toNat_lengthWords hwf bits hB hF (length_toBytes .big n (v / 2 ^ (8 * n)))
    (by rw [hord]; exact toBE_add n n v)
  rw [hord] at hwords
  obtain ⟨hhigh, hlow⟩ := hwords
  exact ⟨hhigh.trans ((fromBytes_toBytes .big n _).trans (lengthValue_div_mod hF)),
    hlow.trans (fromBytes_toBytes .big n v)⟩

/-- R139, SHA-384 and SHA-512 under REF8: the length field is the last word alone. -/
theorem lengthWords_ref8 (hw : s.alg.wordBits = 64) (hc : s.cfg.lenField64 = .ref8) :
    let blk := (s.setMsgSize bits).memRead 0 s.alg.blockBytes
    ((messageWords 64 8 .big blk).getD 15 0).toNat = bits % 2 ^ (8 * s.alg.lengthBytes s.cfg) ∧
    (messageWords 64 8 .big blk).getD 14 0 = (messageWords 64 8 .big (s.memRead 0 s.alg.blockBytes)).getD 14 0 := by
  have hB : 8 * 16 = s.alg.blockBytes := by rw [← wordBits_mul_two, hw]
  have hF := lengthBytes_of_ref8 hc s.alg
  refine ⟨?_, BitVec.eq_of_toNat_eq ?_⟩
  · have hmem := memRead_lengthField hwf bits
    rw [hF, ← hB, byteOrder_of_64 hw] at hmem
    rw [toNat_messageWord (n := 8) _ .big (by omega) hB, hmem, fromBytes_toBytes, hF, Nat.mod_mod]
  · rw [toNat_messageWord (n := 8) _ .big (by omega) hB, toNat_messageWord (n := 8) _ .big (by omega) hB,
      memRead_setMsgSize_below hwf bits (by omega)]

end

/-- Settles O31: each row of R139 from the sizes W, B and F and the byte order of its algorithms. -/
theorem lengthFieldWords : Obligations.LengthFieldWords := by
  intro s bits hwf v blk
  have hB := wordBits_mul_two s.alg
  have hw64 (halg : s.alg = .sha384 ∨ s.alg = .sha512) : s.alg.wordBits = 64 := by
    rcases halg with h | h <;> rw [h] <;> rfl
  refine ⟨fun halg => ?_, fun halg => ?_, fun halg hc => lengthWords_ref8 hwf bits (hw64 halg) hc, fun halg hc => ?_⟩
  · have hord : s.alg.byteOrder = .little := by rcases halg with h | h <;> rw [h] <;> rfl
    have hw := wordBits_of_little hord
    exact toNat_lengthWords_little (n := 4) hwf bits hord (by omega) (lengthBytes_of_32 hw s.cfg)
  · have hord : s.alg.byteOrder = .big := by rcases halg with h | h | h <;> rw [h] <;> rfl
    have hw : s.alg.wordBits = 32 := by rcases halg with h | h | h <;> rw [h] <;> rfl
    exact toNat_lengthWords_big (n := 4) hwf bits hord (by omega) (lengthBytes_of_32 hw s.cfg)
  · have hw := hw64 halg
    exact toNat_lengthWords_big (n := 8) hwf bits (byteOrder_of_64 hw) (by omega) (lengthBytes_of_fips16 hw hc)

/-! ### INIT of the 32-bit algorithms -/

/-- R101: INIT of an algorithm answers a new message under it. -/
theorem exec_initOf_fresh (alg : Alg) (s : State) :
    ∃ t, exec (.initOf alg) s = .next t ∧ FreshMessage alg alg.iv s t :=
  ⟨_, exec_initOf alg s, initialise_fresh s alg⟩

/-- Settles O22: INIT is `initialise` in every state, and the initial vectors of the rules are those of `Alg.iv`. -/
theorem initStartsMessage32 : Obligations.InitStartsMessage32 := fun s =>
  ⟨exec_initOf_fresh .md4 s, exec_initOf_fresh .md5 s, exec_initOf_fresh .sha1 s, exec_initOf_fresh .sha224 s,
    exec_initOf_fresh .sha256 s⟩

/-! ### The compression families -/

/-- R142, R227: SHA-224 has no compression of its own. -/
theorem process_sha224 : process .sha224 = process .sha256 := rfl

/-- R142, R247: nor has SHA-384. -/
theorem process_sha384 : process .sha384 = process .sha512 := rfl

/-- Settles O20: the family table is the case distinction of `process`; the initial vectors differ in their first words. -/
theorem siblingsShareProcess : Obligations.SiblingsShareProcess :=
  ⟨fun _ _ => ⟨rfl, rfl, rfl, rfl, rfl, rfl, rfl⟩, process_sha224, process_sha384, by decide, by decide⟩

/-! ### The constant tables -/

/-- The first 80 primes, written out (R223, R243). -/
def primeTable : List Nat :=
  [2, 3, 5, 7, 11, 13, 17, 19, 23, 29, 31, 37, 41, 43, 47, 53, 59, 61, 67, 71,
   73, 79, 83, 89, 97, 101, 103, 107, 109, 113, 127, 131, 137, 139, 149, 151, 157, 163, 167, 173,
   179, 181, 191, 193, 197, 199, 211, 223, 227, 229, 233, 239, 241, 251, 257, 263, 269, 271, 277, 281,
   283, 293, 307, 311, 313, 317, 331, 337, 347, 349, 353, 359, 367, 373, 379, 383, 389, 397, 401, 409]

/-- The trial division of the statement finds them; it is run once, and the checks below read the table. -/
theorem primes_eq : primes = primeTable := by decide +kernel

/-- R136, R137: the 64-bit initial vectors from square roots. -/
theorem iv_sha512_isRootFraction : ∀ i, i < 8 →
    isRootFraction 2 (primeTable.getD i 0) ((chainWords64 Alg.sha512.iv).getD i 0).toNat = true := by decide +kernel

theorem iv_sha384_isRootFraction : ∀ i, i < 8 →
    isRootFraction 2 (primeTable.getD (8 + i) 0) ((chainWords64 Alg.sha384.iv).getD i 0).toNat = true := by decide +kernel

/-- R243: the round constants from cube roots. -/
theorem sha512K_isRootFraction : ∀ t, t < 80 →
    isRootFraction 3 (primeTable.getD t 0) (sha512K.getD t 0).toNat = true := by decide +kernel

/-- Settles O21: the roots are checked on the table of primes, and the 32-bit tables are halves of the 64-bit ones. -/
theorem constantTablesFromPrimes : Obligations.ConstantTablesFromPrimes := by
  unfold Obligations.ConstantTablesFromPrimes
  rw [primes_eq]
  exact ⟨rfl, iv_sha512_isRootFraction, iv_sha384_isRootFraction, sha512K_isRootFraction, rfl, rfl, rfl, by decide,
    by decide, by decide⟩

end Sys2Proof.Machine

/-! PROOFS of O14 and O16. The round functions bit by bit; and a compression as the sequence of its steps, each step of MD4 and
MD5 in the form in which the rules give it, with the round read off the step number. -/

namespace Sys2Proof.Machine

/-! ### The round functions, bit by bit -/

section
variable {w i : Nat}

/-- R161: F chooses by x. MD5's F (R181) and SHA-1's f1 (R201) have the same formula. -/
theorem getLsbD_md4F (x y z : Word32) (hi : i < 32) :
    (md4F x y z).getLsbD i = if x.getLsbD i then y.getLsbD i else z.getLsbD i := by
  simp only [md4F, BitVec.getLsbD_or, BitVec.getLsbD_and, BitVec.getLsbD_not, hi]
  cases x.getLsbD i <;> simp

/-- R162: G is the majority. SHA-1's f3 (R201) has the same formula. -/
theorem getLsbD_md4G (x y z : Word32) :
    (md4G x y z).getLsbD i = Bool.atLeastTwo (x.getLsbD i) (y.getLsbD i) (z.getLsbD i) := by
  simp only [md4G, BitVec.getLsbD_or, BitVec.getLsbD_and, Bool.atLeastTwo]

/-- R163: H is the parity. MD5's H (R181) and SHA-1's f2 (R201) have the same formula. -/
theorem getLsbD_md4H (x y z : Word32) :
    (md4H x y z).getLsbD i = Bool.xor (Bool.xor (x.getLsbD i) (y.getLsbD i)) (z.getLsbD i) := by
  simp only [md4H, BitVec.getLsbD_xor]

/-- R181: MD5's G chooses by z. -/
theorem getLsbD_md5G (x y z : Word32) (hi : i < 32) :
    (md5G x y z).getLsbD i = if z.getLsbD i then x.getLsbD i else y.getLsbD i := by
  simp only [md5G, BitVec.getLsbD_or, BitVec.getLsbD_and, BitVec.getLsbD_not, hi]
  cases z.getLsbD i <;> simp

/-- R181: MD5's I inverts y where `x | ~z` has a 1. -/
theorem getLsbD_md5I (x y z : Word32) (hi : i < 32) :
    (md5I x y z).getLsbD i = if x.getLsbD i ∨ z.getLsbD i = false then !y.getLsbD i else y.getLsbD i := by
  simp only [md5I, BitVec.getLsbD_xor, BitVec.getLsbD_or, BitVec.getLsbD_not, hi]
  cases x.getLsbD i <;> cases z.getLsbD i <;> simp

/-- R220, R240: CH chooses by x: its two terms have no 1 in common. -/
theorem getLsbD_sha2Ch (x y z : BitVec w) (hi : i < w) :
    (sha2Ch x y z).getLsbD i = if x.getLsbD i then y.getLsbD i else z.getLsbD i := by
  simp only [sha2Ch, BitVec.getLsbD_xor, BitVec.getLsbD_and, BitVec.getLsbD_not, hi]
  cases x.getLsbD i <;> simp

/-- R220, R240: MAJ is the majority: of three conjunctions one or all three hold, if any does. -/
theorem getLsbD_sha2Maj (x y z : BitVec w) :
    (sha2Maj x y z).getLsbD i = Bool.atLeastTwo (x.getLsbD i) (y.getLsbD i) (z.getLsbD i) := by
  simp only [sha2Maj, BitVec.getLsbD_xor, BitVec.getLsbD_and, Bool.atLeastTwo]
  cases x.getLsbD i <;> cases y.getLsbD i <;> simp

end

/-- Settles O14: each function at its bit; three formulas are shared between the families. -/
theorem roundFunctionsBitwise : Obligations.RoundFunctionsBitwise :=
  ⟨fun x y z _ hi =>
    ⟨getLsbD_md4F x y z hi, getLsbD_md4G x y z, getLsbD_md4H x y z, getLsbD_md4F x y z hi, getLsbD_md5G x y z hi,
      getLsbD_md4H x y z, getLsbD_md5I x y z hi, getLsbD_md4F x y z hi, getLsbD_md4H x y z, getLsbD_md4G x y z⟩,
    fun _ _ x y z _ hi => ⟨getLsbD_sha2Ch x y z hi, getLsbD_sha2Maj x y z⟩⟩

/-! ### A compression as the sequence of its steps -/

/-- The working variables after the first t steps from v. -/
def varsAfter {V : Type} (step : V → Nat → V) (v : V) (t : Nat) : V := (List.range t).foldl step v

theorem varsAfter_zero {V : Type} (step : V → Nat → V) (v : V) : varsAfter step v 0 = v := rfl

theorem varsAfter_succ {V : Type} (step : V → Nat → V) (v : V) (t : Nat) :
    varsAfter step v (t + 1) = step (varsAfter step v t) t := by
  simp only [varsAfter, List.range_succ, List.foldl_append, List.foldl_cons, List.foldl_nil]

theorem processMD4_eq (h : List Word32) (blk : List Byte) :
    processMD4 h blk = (varsAfter (md4Step (messageWords 32 4 .little blk)) (Vars4.load h) 48).feedForward h := rfl

theorem processMD5_eq (h : List Word32) (blk : List Byte) :
    processMD5 h blk = (varsAfter (md5Step (messageWords 32 4 .little blk)) (Vars4.load h) 64).feedForward h := rfl

/-! ### The round of a step -/

section
variable {α : Type} (f : Nat → α) {n t : Nat}

/-- What the round t / n selects, by bounds on the step t, in a compression of four rounds of n steps. -/
theorem apply_round_of_lt_four (ht : t < 4 * n) :
    f (t / n) = if t < n then f 0 else if t < 2 * n then f 1 else if t < 3 * n then f 2 else f 3 := by
  have round {r : Nat} (hlo : r * n ≤ t) (hhi : t < (r + 1) * n) : f (t / n) = f r :=
    congrArg f (Nat.div_eq_of_lt_le hlo hhi)
  split_ifs <;> exact round (by omega) (by omega)

/-- The same in a compression of three rounds. -/
theorem apply_round_of_lt_three (ht : t < 3 * n) :
    f (t / n) = if t < n then f 0 else if t < 2 * n then f 1 else f 2 := by
  rw [apply_round_of_lt_four f (by omega), if_pos ht]

end

/-! ### The steps of MD4 and MD5 -/

/-- R164, R167: step t of MD4, with the function and the constant of its round. -/
theorem md4Step_of_lt (x : List Word32) (v : Vars4) {t : Nat} (ht : t < 48) :
    md4Step x v t =
      { a := v.d,
        b := rotl (v.a +
            (if t < 16 then md4F v.b v.c v.d else if t < 32 then md4G v.b v.c v.d else md4H v.b v.c v.d) +
            x.getD (md4Index.getD t 0) 0 +
            (if t < 16 then 0x00000000#32 else if t < 32 then 0x5a827999#32 else 0x6ed9eba1#32))
          (md4Shift.getD (4 * (t / 16) + t % 4) 0),
        c := v.b,
        d := v.c } := by
  have hphi : md4Phi (t / 16) v.b v.c v.d =
      if t < 16 then md4F v.b v.c v.d else if t < 32 then md4G v.b v.c v.d else md4H v.b v.c v.d :=
    apply_round_of_lt_three (fun r => md4Phi r v.b v.c v.d) ht
  have hk : md4K.getD (t / 16) 0 =
      if t < 16 then 0x00000000#32 else if t < 32 then 0x5a827999#32 else 0x6ed9eba1#32 :=
    apply_round_of_lt_three (fun r => md4K.getD r 0) ht
  rw [md4Step, hphi, hk]

/-- R184: the index g(i) by bounds on the step. -/
theorem md5Index_of_lt {i : Nat} (hi : i < 64) :
    md5Index i = if i < 16 then i else if i < 32 then (5 * i + 1) % 16
      else if i < 48 then (3 * i + 5) % 16 else 7 * i % 16 :=
  apply_round_of_lt_four (fun r => match r with
    | 0 => i
    | 1 => (5 * i + 1) % 16
    | 2 => (3 * i + 5) % 16
    | _ => 7 * i % 16) hi

/-- R184, R186: step i of MD5, with the function and the index of its round, and b added back. -/
theorem md5Step_of_lt (m : List Word32) (v : Vars4) {i : Nat} (hi : i < 64) :
    md5Step m v i =
      { a := v.d,
        b := v.b + rotl (v.a +
            (if i < 16 then md5F v.b v.c v.d else if i < 32 then md5G v.b v.c v.d
              else if i < 48 then md5H v.b v.c v.d else md5I v.b v.c v.d) +
            md5T.getD i 0 +
            m.getD (if i < 16 then i else if i < 32 then (5 * i + 1) % 16
              else if i < 48 then (3 * i + 5) % 16 else 7 * i % 16) 0)
          (md5Shift.getD (4 * (i / 16) + i % 4) 0),
        c := v.b,
        d := v.c } := by
  have hphi : md5Phi (i / 16) v.b v.c v.d =
      if i < 16 then md5F v.b v.c v.d else if i < 32 then md5G v.b v.c v.d
        else if i < 48 then md5H v.b v.c v.d else md5I v.b v.c v.d :=
    apply_round_of_lt_four (fun r => md5Phi r v.b v.c v.d) hi
  rw [md5Step, hphi, md5Index_of_lt hi]

/-- Settles O16: the sequence is `varsAfter` of the family's step from H; the tables of the statement are those of the model,
and the feed-forward is applied to the last working variables. -/
theorem mdCompressionSteps : Obligations.MDCompressionSteps := fun h blk =>
  ⟨⟨varsAfter (md4Step (messageWords 32 4 .little blk)) (Vars4.load h), varsAfter_zero _ _,
      fun t ht => (varsAfter_succ _ _ t).trans (md4Step_of_lt _ _ ht), processMD4_eq h blk⟩,
    ⟨varsAfter (md5Step (messageWords 32 4 .little blk)) (Vars4.load h), varsAfter_zero _ _,
      fun i hi => (varsAfter_succ _ _ i).trans (md5Step_of_lt _ _ hi), processMD5_eq h blk⟩⟩

end Sys2Proof.Machine

/-! PROOFS of O13 and O17. A message schedule is a list that grows by one word at a time, each read from the words before it, so
the finished schedule obeys the recurrence; and SHA-1 compression as the sequence of its steps. -/

namespace Sys2Proof.Machine

/-! ### Lists grown by a recurrence -/

section
variable {α : Type} (word : List α → Nat → α) (x : List α)

/-- x followed by n words, each read by `word` from the list so far at its own position. -/
def growBy (n : Nat) : List α := (List.range' x.length n).foldl (fun wt t => wt ++ [word wt t]) x

theorem growBy_zero : growBy word x 0 = x := rfl

theorem growBy_succ (n : Nat) :
    growBy word x (n + 1) = growBy word x n ++ [word (growBy word x n) (x.length + n)] := by
  simp only [growBy, List.range'_1_concat, List.foldl_append, List.foldl_cons, List.foldl_nil]

theorem length_growBy (n : Nat) : (growBy word x n).length = x.length + n := by
  induction n with
  | zero => rfl
  | succ n ih => rw [growBy_succ, List.length_append, ih, List.length_singleton, Nat.add_assoc]

variable {word x} {n t : Nat}

theorem getD_growBy_of_lt (ht : t < x.length) (d : α) : (growBy word x n).getD t d = x.getD t d := by
  induction n with
  | zero => rfl
  | succ n ih => rw [growBy_succ, List.getD_append _ _ _ _ (by rw [length_growBy]; omega), ih]

/-- Where `word` at t reads only words before t, each added word is `word` of the finished list. -/
theorem getD_growBy_of_le (hword : ∀ wt ys t, x.length ≤ t → t ≤ wt.length → word (wt ++ ys) t = word wt t)
    (hlo : x.length ≤ t) (hhi : t < x.length + n) (d : α) :
    (growBy word x n).getD t d = word (growBy word x n) t := by
  induction n with
  | zero => omega
  | succ n ih =>
    have hl := length_growBy word x n
    rw [growBy_succ, hword _ _ t hlo (by omega)]
    obtain hlt | rfl : t < x.length + n ∨ t = x.length + n := by omega
    · rw [List.getD_append _ _ _ _ (by omega), ih hlt]
    · rw [List.getD_append_right _ _ _ _ hl.le, hl, Nat.sub_self, List.getD_cons_zero]

end

/-! ### The schedules -/

/-- R200: word t reads only words before t. -/
theorem sha1ScheduleWord_append (wt ys : List Word32) (t : Nat) (hlo : 16 ≤ t) (hhi : t ≤ wt.length) :
    sha1ScheduleWord (wt ++ ys) t = sha1ScheduleWord wt t := by
  simp (disch := omega) only [sha1ScheduleWord, List.getD_append]

/-- R224, R244: word t reads only words before t. -/
theorem sha2ScheduleWord_append {w : Nat} (core : Sha2Core w) (wt ys : List (BitVec w)) (t : Nat) (hlo : 16 ≤ t)
    (hhi : t ≤ wt.length) : sha2ScheduleWord core (wt ++ ys) t = sha2ScheduleWord core wt t := by
  simp (disch := omega) only [sha2ScheduleWord, List.getD_append]

theorem sha1Schedule_eq_growBy {x : List Word32} (hx : x.length = 16) :
    sha1Schedule x = growBy sha1ScheduleWord x 64 := by
  rw [sha1Schedule, growBy, hx]

theorem sha2Schedule_eq_growBy {w : Nat} (core : Sha2Core w) {x : List (BitVec w)} (hx : x.length = 16) :
    sha2Schedule core x = growBy (sha2ScheduleWord core) x (core.steps - 16) := by
  rw [sha2Schedule, growBy, hx]

/-- R200, for 16 message words. -/
theorem sha1Schedule_recurrence {x : List Word32} (hx : x.length = 16) :
    (sha1Schedule x).length = 80 ∧
    (∀ t, t < 16 → (sha1Schedule x).getD t 0 = x.getD t 0) ∧
    (∀ t, 16 ≤ t → t < 80 → (sha1Schedule x).getD t 0 = sha1ScheduleWord (sha1Schedule x) t) := by
  rw [sha1Schedule_eq_growBy hx]
  refine ⟨?_, fun t ht => getD_growBy_of_lt (by omega) 0, fun t hlo hhi => ?_⟩
  · rw [length_growBy, hx]
  · exact getD_growBy_of_le (by simpa only [hx] using sha1ScheduleWord_append) (by omega) (by omega) 0

/-- R224, R244, for 16 message words and any functions and number of steps. -/
theorem sha2Schedule_recurrence {w : Nat} (core : Sha2Core w) (hs : 16 ≤ core.steps) {x : List (BitVec w)}
    (hx : x.length = 16) :
    (sha2Schedule core x).length = core.steps ∧
    (∀ t, t < 16 → (sha2Schedule core x).getD t 0 = x.getD t 0) ∧
    (∀ t, 16 ≤ t → t < core.steps →
      (sha2Schedule core x).getD t 0 = sha2ScheduleWord core (sha2Schedule core x) t) := by
  rw [sha2Schedule_eq_growBy core hx]
  refine ⟨?_, fun t ht => getD_growBy_of_lt (by omega) 0, fun t hlo hhi => ?_⟩
  · rw [length_growBy, hx, Nat.add_sub_cancel' hs]
  · exact getD_growBy_of_le (by simpa only [hx] using sha2ScheduleWord_append core) (by omega) (by omega) 0

/-- Settles O13: the two recurrences of the model, the second at the functions of SHA-256 and of SHA-512. -/
theorem scheduleRecurrences : Obligations.ScheduleRecurrences :=
  ⟨fun _ hx => sha1Schedule_recurrence hx, fun _ hx => sha2Schedule_recurrence sha256Core (by decide) hx,
    fun _ hx => sha2Schedule_recurrence sha512Core (by decide) hx⟩

/-! ### The steps of SHA-1 -/

/-- R204: PROCESS_SHA1 by the working variables after step 79. -/
theorem processSHA1_eq (h : List Word32) (blk : List Byte) :
    processSHA1 h blk =
      (varsAfter (sha1Step (sha1Schedule (messageWords 32 4 .big blk))) (Vars5.load h) 80).feedForward h := rfl

/-- R202, R203: step t of SHA-1, with the function and the constant of its round. -/
theorem sha1Step_of_lt (wt : List Word32) (v : Vars5) {t : Nat} (ht : t < 80) :
    sha1Step wt v t =
      { a := rotl v.a 5 +
          (if t < 20 then sha1F1 v.b v.c v.d else if t < 40 then sha1F2 v.b v.c v.d
            else if t < 60 then sha1F3 v.b v.c v.d else sha1F2 v.b v.c v.d) +
          v.e +
          (if t < 20 then 0x5a827999#32 else if t < 40 then 0x6ed9eba1#32
            else if t < 60 then 0x8f1bbcdc#32 else 0xca62c1d6#32) +
          wt.getD t 0,
        b := v.a,
        c := rotl v.b 30,
        d := v.c,
        e := v.d } := by
  have hf : sha1F (t / 20) v.b v.c v.d =
      if t < 20 then sha1F1 v.b v.c v.d else if t < 40 then sha1F2 v.b v.c v.d
        else if t < 60 then sha1F3 v.b v.c v.d else sha1F2 v.b v.c v.d :=
    apply_round_of_lt_four (fun r => sha1F r v.b v.c v.d) ht
  have hk : sha1K.getD (t / 20) 0 =
      if t < 20 then 0x5a827999#32 else if t < 40 then 0x6ed9eba1#32
        else if t < 60 then 0x8f1bbcdc#32 else 0xca62c1d6#32 :=
    apply_round_of_lt_four (fun r => sha1K.getD r 0) ht
  rw [sha1Step, hf, hk]

/-- Settles O17: the sequence is `varsAfter` of the step from H, on the schedule of the Block's words. -/
theorem sha1CompressionSteps : Obligations.SHA1CompressionSteps := fun h blk =>
  ⟨varsAfter (sha1Step (sha1Schedule (messageWords 32 4 .big blk))) (Vars5.load h), varsAfter_zero _ _,
    fun t ht => (varsAfter_succ _ _ t).trans (sha1Step_of_lt _ _ ht), processSHA1_eq h blk⟩

end Sys2Proof.Machine

/-! PROOFS of O15 and O18. A rotation and a shift right read at one bit, and the sigma functions as parities of three such bits;
and SHA-2 compression, of either family, as the sequence of its steps. -/

namespace Sys2Proof.Machine

/-! ### Rotation and shift, bit by bit -/

section
variable {w i : Nat} (x : BitVec w)

/-- R264: the unit's test for `r = 0` adds nothing to the library's rotation, whose left shift by W is 0. -/
theorem rotr_eq_rotateRight (n : Nat) : rotr x n = x.rotateRight n := by
  rw [rotr, BitVec.rotateRight_def]
  split
  · next hr => rw [hr, BitVec.ushiftRight_zero, Nat.sub_zero, BitVec.shiftLeft_eq_zero le_rfl, BitVec.or_zero]
  · rfl

/-- R264: bit i of a rotation to the right comes from n places up, around the top of the word. -/
theorem getLsbD_rotr (n : Nat) (hi : i < w) : (rotr x n).getLsbD i = x.getLsbD ((i + n) % w) := by
  have hr : n % w < w := Nat.mod_lt n (by omega)
  rw [rotr_eq_rotateRight, BitVec.getLsbD_rotateRight, ← Nat.add_mod_mod, Bool.cond_decide]
  split
  · next hlt => rw [Nat.add_comm, Nat.mod_eq_of_lt (show i + n % w < w by omega)]
  · next hge =>
    have hwrap : (i + n % w) % w = i - (w - n % w) := by
      rw [Nat.mod_eq_sub_mod (by omega), Nat.mod_eq_of_lt (by omega)]
      omega
    rw [hwrap, decide_eq_true hi, Bool.true_and]

/-- R265: bit i of a shift to the right comes from n places up, and is 0 from past the top of the word. -/
theorem getLsbD_shr (n : Nat) : (shr x n).getLsbD i = if i + n < w then x.getLsbD (i + n) else false := by
  rw [shr, BitVec.getLsbD_ushiftRight, Nat.add_comm]
  split
  · rfl
  · next hge => exact BitVec.getLsbD_of_ge _ _ (by omega)

/-- R221, R241: EP0 and EP1 at a bit, for any amounts. -/
theorem getLsbD_rotr_rotr_rotr (l m n : Nat) (hi : i < w) :
    (rotr x l ^^^ rotr x m ^^^ rotr x n).getLsbD i =
      Bool.xor (Bool.xor (x.getLsbD ((i + l) % w)) (x.getLsbD ((i + m) % w))) (x.getLsbD ((i + n) % w)) := by
  rw [BitVec.getLsbD_xor, BitVec.getLsbD_xor, getLsbD_rotr x l hi, getLsbD_rotr x m hi, getLsbD_rotr x n hi]

/-- R222, R242: SIG0 and SIG1 at a bit, for any amounts. -/
theorem getLsbD_rotr_rotr_shr (l m n : Nat) (hi : i < w) :
    (rotr x l ^^^ rotr x m ^^^ shr x n).getLsbD i =
      Bool.xor (Bool.xor (x.getLsbD ((i + l) % w)) (x.getLsbD ((i + m) % w)))
        (if i + n < w then x.getLsbD (i + n) else false) := by
  rw [BitVec.getLsbD_xor, BitVec.getLsbD_xor, getLsbD_rotr x l hi, getLsbD_rotr x m hi, getLsbD_shr x n]

end

/-- Settles O15: the two forms of a sigma function at the amounts of each family. -/
theorem sigmaFunctionsBitwise : Obligations.SigmaFunctionsBitwise :=
  ⟨fun x _ hi => ⟨getLsbD_rotr_rotr_rotr x 2 13 22 hi, getLsbD_rotr_rotr_rotr x 6 11 25 hi,
      getLsbD_rotr_rotr_shr x 7 18 3 hi, getLsbD_rotr_rotr_shr x 17 19 10 hi⟩,
    fun x _ hi => ⟨getLsbD_rotr_rotr_rotr x 28 34 39 hi, getLsbD_rotr_rotr_rotr x 14 18 41 hi,
      getLsbD_rotr_rotr_shr x 1 8 7 hi, getLsbD_rotr_rotr_shr x 19 61 6 hi⟩⟩

/-! ### The steps of SHA-2 -/

section
variable {w : Nat} (core : Sha2Core w) (h x : List (BitVec w))

/-- The working variables after the first t steps of a compression of the message words x from the ChainingState h. -/
def sha2VarsAfter (t : Nat) : Vars8 w := varsAfter (sha2Step core (sha2Schedule core x)) (Vars8.load h) t

theorem sha2VarsAfter_zero : sha2VarsAfter core h x 0 = Vars8.load h := varsAfter_zero _ _

/-- R225, R245: every step is `sha2Step` on the schedule of the message words. -/
theorem sha2VarsAfter_succ (t : Nat) :
    sha2VarsAfter core h x (t + 1) = sha2Step core (sha2Schedule core x) (sha2VarsAfter core h x t) t :=
  varsAfter_succ _ _ t

/-- R226, R246: PROCESS by the working variables after the last step. -/
theorem sha2Process_eq : sha2Process core h x = (sha2VarsAfter core h x core.steps).feedForward h := rfl

end

/-- Settles O18: the sequence is `sha2VarsAfter` at the core of the family; the statement writes `sha2Step`, the loading and the
feed-forward out. -/
theorem sha2CompressionSteps : Obligations.SHA2CompressionSteps :=
  ⟨fun h blk => ⟨sha2VarsAfter sha256Core h (messageWords 32 4 .big blk), sha2VarsAfter_zero _ _ _,
      fun t _ => sha2VarsAfter_succ _ _ _ t, sha2Process_eq _ _ _⟩,
    fun h blk => ⟨sha2VarsAfter sha512Core h (messageWords 64 8 .big blk), sha2VarsAfter_zero _ _ _,
      fun t _ => sha2VarsAfter_succ _ _ _ t, sha2Process_eq _ _ _⟩⟩

end Sys2Proof.Machine

/-! PROOFS of O9, O10 and O11. A rotation to the left is the rotation to the right by the rest of the width (R267), so every
law of ROTL is one of ROTR, whose bits `getLsbD_rotr` reads. The lemmas hold at every width above 0. -/

namespace Sys2Proof.Machine

section
variable {w : Nat} (x : BitVec w) {n : Nat}

/-! ### The two branches of each unit, as words and as numbers -/

theorem rotl_of_mod_eq_zero (h : n % w = 0) : rotl x n = x := if_pos h

theorem rotr_of_mod_eq_zero (h : n % w = 0) : rotr x n = x := if_pos h

theorem rotl_of_mod_ne_zero (h : n % w ≠ 0) : rotl x n = x <<< (n % w) ||| x >>> (w - n % w) := if_neg h

theorem rotr_of_mod_ne_zero (h : n % w ≠ 0) : rotr x n = x >>> (n % w) ||| x <<< (w - n % w) := if_neg h

/-- R263: the left shift keeps the low W bits, and the right shift is a division. -/
theorem toNat_rotl (h : n % w ≠ 0) :
    (rotl x n).toNat = (x.toNat * 2 ^ (n % w)) % 2 ^ w ||| x.toNat / 2 ^ (w - n % w) := by
  rw [rotl_of_mod_ne_zero x h, BitVec.toNat_or, BitVec.toNat_shiftLeft, BitVec.toNat_ushiftRight, Nat.shiftLeft_eq,
    Nat.shiftRight_eq_div_pow]

/-- R264: as `toNat_rotl`, with the two shifts exchanged. -/
theorem toNat_rotr (h : n % w ≠ 0) :
    (rotr x n).toNat = x.toNat / 2 ^ (n % w) ||| (x.toNat * 2 ^ (w - n % w)) % 2 ^ w := by
  rw [rotr_of_mod_ne_zero x h, BitVec.toNat_or, BitVec.toNat_shiftLeft, BitVec.toNat_ushiftRight, Nat.shiftLeft_eq,
    Nat.shiftRight_eq_div_pow]

/-! ### The laws of the two units -/

/-- R267: a rotation to the left is one to the right by the rest of the width, also where n mod W is 0. -/
theorem rotl_eq_rotr (hw : 0 < w) (n : Nat) : rotl x n = rotr x (w - n % w) := by
  have hlt : n % w < w := Nat.mod_lt n hw
  by_cases h : n % w = 0
  · rw [rotl_of_mod_eq_zero x h, h, Nat.sub_zero, rotr_of_mod_eq_zero x (Nat.mod_self w)]
  · have hr : (w - n % w) % w = w - n % w := Nat.mod_eq_of_lt (by omega)
    rw [rotl_of_mod_ne_zero x h, rotr_of_mod_ne_zero x (by omega), hr, Nat.sub_sub_self hlt.le, BitVec.or_comm]

/-- Rotations to the right add their amounts up. -/
theorem rotr_rotr (m n : Nat) : rotr (rotr x m) n = rotr x (n + m) := by
  refine BitVec.eq_of_getLsbD_eq fun i hi => ?_
  rw [getLsbD_rotr _ n hi, getLsbD_rotr x m (Nat.mod_lt _ (by omega)), getLsbD_rotr x (n + m) hi, Nat.mod_add_mod,
    Nat.add_assoc]

/-- R266: the two rotations by n are together one by a multiple of the width. -/
theorem rotl_rotr (hw : 0 < w) (n : Nat) : rotl (rotr x n) n = x := by
  have hsum : (w - n % w + n) % w = 0 := by
    rw [← Nat.add_mod_mod, Nat.sub_add_cancel (Nat.mod_lt n hw).le, Nat.mod_self]
  rw [rotl_eq_rotr _ hw, rotr_rotr, rotr_of_mod_eq_zero x hsum]

theorem rotl_width_add (n : Nat) : rotl x (w + n) = rotl x n := by rw [rotl, rotl, Nat.add_mod_left]

theorem rotr_width_add (n : Nat) : rotr x (w + n) = rotr x n := by rw [rotr, rotr, Nat.add_mod_left]

variable {x}

/-- R267: a word all of whose bits are alike is fixed by every rotation to the right. -/
theorem rotr_of_bits_alike {b : Bool} (hx : ∀ i < w, x.getLsbD i = b) (n : Nat) : rotr x n = x := by
  refine BitVec.eq_of_getLsbD_eq fun i hi => ?_
  rw [getLsbD_rotr x n hi, hx _ (Nat.mod_lt _ (by omega)), hx i hi]

/-- R267: a word all of whose bits are alike is fixed by every rotation to the left. -/
theorem rotl_of_bits_alike (hw : 0 < w) {b : Bool} (hx : ∀ i < w, x.getLsbD i = b) (n : Nat) : rotl x n = x := by
  rw [rotl_eq_rotr x hw, rotr_of_bits_alike hx]

end

/-- Settles O9, by the branches of each unit read as numbers. -/
theorem rotationFormulas : Obligations.RotationFormulas := fun _ _ x _ =>
  ⟨fun h => ⟨rotl_of_mod_eq_zero x h, rotr_of_mod_eq_zero x h⟩, fun h => ⟨toNat_rotl x h, toNat_rotr x h⟩⟩

/-- Settles O10: the amounts 0 and W are both 0 mod W. -/
theorem rotationLaws : Obligations.RotationLaws := fun w hW x n =>
  have hw : 0 < w := by omega
  ⟨rotl_rotr x hw n, rotl_of_mod_eq_zero x (Nat.zero_mod w), rotl_of_mod_eq_zero x (Nat.mod_self w)⟩

/-- Settles O11: the words 0 and 2^W - 1 are those with all bits alike. -/
theorem rotationCornerCases : Obligations.RotationCornerCases := fun w hW x n =>
  have hw : 0 < w := by omega
  have zeros : ∀ i < w, (0 : BitVec w).getLsbD i = false := fun _ _ => BitVec.getLsbD_zero
  have ones : ∀ i < w, (BitVec.allOnes w).getLsbD i = true := fun _ hi =>
    BitVec.getLsbD_allOnes.trans (decide_eq_true hi)
  ⟨fun _ => rotl_eq_rotr x hw n, rotl_width_add x n, rotr_width_add x n,
    rotl_of_bits_alike hw zeros n, rotr_of_bits_alike zeros n,
    rotl_of_bits_alike hw ones n, rotr_of_bits_alike ones n⟩

end Sys2Proof.Machine

/-! PROOFS of O26, O35 and O6. The refused UPDATE and the commands issued after it, the one form of a next state that is
FAILED, and the idle step. -/

namespace Sys2Proof.Machine

open Sys2Proof.Statements

/-- R118: in FAILED the lifecycle table gives neither UPDATE nor FINAL an effect. -/
theorem exec_update_failed {s : State} (h : s.life = .failed) (data : List Byte) :
    exec (.update data) s = .fault .frUseAfterFail :=
  exec_update_of_fault (by rw [h]; rfl) data

theorem exec_final_failed {s : State} (h : s.life = .failed) : exec .final s = .fault .frUseAfterFail :=
  exec_final_of_fault (by rw [h]; rfl)

/-- R102, R118: RESET answers a new message wherever an algorithm is selected, and so in FAILED. -/
theorem exec_reset_fresh {s : State} (h : s.life ≠ .unconfigured) :
    ∃ t, exec .reset s = .next t ∧ FreshMessage s.alg s.alg.iv s t :=
  ⟨_, exec_reset_configured h, startMessage_fresh s⟩

/-- Settles O26: the length test refuses whatever OFF is, and the state it leaves is in the FAILED row of the table. -/
theorem overflowRefusesUpdate : Obligations.OverflowRefusesUpdate := by
  intro s data hl hover
  have hfailed : s.raiseLengthOverflow.life = .failed := State.raiseLengthOverflow_life s
  have hconfigured : s.raiseLengthOverflow.life ≠ .unconfigured := by rw [hfailed]; decide
  exact ⟨s.raiseLengthOverflow, exec_update_of_overflow hl hover,
    hfailed, State.raiseLengthOverflow_outbox s,
    chain_raiseLengthOverflow s, fun a _ => readByte_raiseLengthOverflow s a, State.raiseLengthOverflow_off s,
    State.raiseLengthOverflow_alg s, State.raiseLengthOverflow_cfg s, State.raiseLengthOverflow_inbox s,
    exec_update_failed hfailed, exec_final_failed hfailed,
    exec_reset_fresh hconfigured, fun alg => exec_initOf_fresh alg _⟩

/-- Settles O35: of the five forms of a next state the refused UPDATE alone is FAILED, and it alone answers false. -/
theorem onlyOverflowFails : Obligations.OnlyOverflowFails := by
  intro i s t h
  rcases exec_next_cases h with ⟨alg, rfl, rfl⟩ | ⟨rfl, -, rfl⟩ | ⟨data, rfl, hl, hover, rfl⟩ |
    ⟨data, rfl, hl, hle, -, rfl⟩ | ⟨rfl, -, -, rfl⟩
  · simp
  · simp
  · simpa [hl, lengthLimit] using hover
  · simpa [hl, lengthLimit] using hle
  · simp [finish_outbox]

/-- Settles O6: with no transaction to take, a step is idle. -/
theorem idleStepLosesNothing : Obligations.IdleStepLosesNothing := fun _ => step_of_inbox_nil

end Sys2Proof.Machine

/-! PROOFS of O38 and O19. The power-on state, and the compression traces of "abc", evaluated. -/

namespace Sys2Proof.Machine

open Sys2Proof.Statements

/-- Settles O38: `powerOn_inv`; nothing is issued or answered by the definition of `State.reset`. -/
theorem powerOnMeetsInvariant : Obligations.PowerOnMeetsInvariant := ⟨powerOn_inv, rfl, rfl, rfl⟩

/-! ### PROCESS on the padded Block of "abc"

What PROCESS answers is the last working variables of the trace, fed forward: it needs no second evaluation of the steps. -/

theorem process_md4_abc :
    process .md4 Alg.md4.iv abcLittle = .w32 ((md4VarsAfter 48).feedForward (chainWords32 Alg.md4.iv)) :=
  congrArg Chain.w32 (processMD4_eq _ _)

theorem process_md5_abc :
    process .md5 Alg.md5.iv abcLittle = .w32 ((md5VarsAfter 64).feedForward (chainWords32 Alg.md5.iv)) :=
  congrArg Chain.w32 (processMD5_eq _ _)

theorem process_sha1_abc :
    process .sha1 Alg.sha1.iv (abcBig 64) = .w32 ((sha1VarsAfter 80).feedForward (chainWords32 Alg.sha1.iv)) :=
  congrArg Chain.w32 (processSHA1_eq _ _)

theorem process_sha256_abc :
    process .sha256 Alg.sha256.iv (abcBig 64) = .w32 ((sha256VarsAfter 64).feedForward (chainWords32 Alg.sha256.iv)) :=
  congrArg Chain.w32 (sha2Process_eq _ _ _)

theorem process_sha512_abc :
    process .sha512 Alg.sha512.iv (abcBig 128) = .w64 ((sha512VarsAfter 80).feedForward (chainWords64 Alg.sha512.iv)) :=
  congrArg Chain.w64 (sha2Process_eq _ _ _)

/-- Settles O19: each family's trace is evaluated, and PROCESS is read off its last working variables. -/
theorem compressionTraces : Obligations.CompressionTraces := by
  unfold Obligations.CompressionTraces
  rw [process_md4_abc, process_md5_abc, process_sha1_abc, process_sha256_abc, process_sha512_abc]
  exact ⟨by decide +kernel, by decide +kernel, by decide +kernel, by decide +kernel, by decide +kernel⟩

end Sys2Proof.Machine
